-- ==== Sys2Proof/Word.lean ====
section
/-! DEFINITION. The word types of the Machine (spec/00_scope.md R6, R7): every quantity is an unsigned integer of a
stated width. -/

namespace Sys2Proof

/-- A byte: a general register, a memory cell, a timer, the immediate `NN`. -/
abbrev Byte := BitVec 8

/-- A 16-bit word: an instruction word, `pc`, `I`, a stack entry. -/
abbrev Word := BitVec 16

/-- The 12-bit immediate address `NNN` (R54). -/
abbrev Addr12 := BitVec 12

/-- A register index, the fields `X` and `Y` (R11, R54): all sixteen values are legal. -/
abbrev Reg := Fin 16

/-- `zext_16(v)` of R7: every widening of this machine is a zero extension. -/
abbrev zext16 {w : Nat} (v : BitVec w) : Word := v.setWidth 16

end Sys2Proof
end

