-- ==== Sys2Proof/Config.lean ====
section
/-! DEFINITION. The sizes the spec fixes (spec/00_scope.md R6) and the one free value of the model: the random byte of
CXNN (spec/42_alu.md R92, spec/92_eei_decisions.md D9). -/

namespace Sys2Proof

/-- Memory size: 4096 bytes, addresses 0x000 to 0xFFF (R6, R30). -/
def Config.memSize : Nat := 4096

/-- Size of the font at address 0: 16 glyphs of 5 bytes (R6, R32). -/
def Config.fontSize : Nat := 80

/-- The address a program image is loaded at, and `pc` after reset (R6, R13, R171). -/
def Config.programBase : Nat := 0x200

/-- The longest program image: 4096 - 512 bytes (R6, R55, R171). -/
def Config.maxImage : Nat := 3584

/-- Stack depth: 16 return addresses (R6, R15). -/
def Config.stackDepth : Nat := 16

/-- FREE VALUE (log 2; R92: "a free 8-bit value under no law, drawn anew for every execution of the instruction"). The
`n`-th byte CXNN draws. It has no body, so no proof can see a value of it. DESIGN CHOICE, safe: every byte is admitted. -/
opaque Config.freeRand : Nat → Byte

end Sys2Proof
end

