-- ==== Sys2Proof/Syntax.lean ====
section
/-! DEFINITION. The 35 instructions of spec/30_encoding.md R49, one constructor per row of spec/opcode_table.json, with
the operand fields of R46 and R54. Every operand type holds exactly the values its field can hold. -/

namespace Sys2Proof

/-- An instruction with its operands. The docstring of a constructor gives its pattern and the rule of its meaning. -/
inductive Instr where
  /-- 0000, NOP (R61). -/
  | nop
  /-- 00E0, CLS (R110). -/
  | cls
  /-- 00EE, RET (R62). -/
  | ret
  /-- 1NNN, JP nnn (R63). -/
  | jpNnn (nnn : Addr12)
  /-- 2NNN, CALL nnn (R64). -/
  | callNnn (nnn : Addr12)
  /-- 3XNN, SE Vx, nn (R71). -/
  | seVxNn (x : Reg) (nn : Byte)
  /-- 4XNN, SNE Vx, nn (R72). -/
  | sneVxNn (x : Reg) (nn : Byte)
  /-- 5XY0, SE Vx, Vy (R73). -/
  | seVxVy (x y : Reg)
  /-- 6XNN, LD Vx, nn (R81). -/
  | ldVxNn (x : Reg) (nn : Byte)
  /-- 7XNN, ADD Vx, nn (R82). -/
  | addVxNn (x : Reg) (nn : Byte)
  /-- 8XY0, LD Vx, Vy (R83). -/
  | ldVxVy (x y : Reg)
  /-- 8XY1, OR Vx, Vy (R84). -/
  | orVxVy (x y : Reg)
  /-- 8XY2, AND Vx, Vy (R85). -/
  | andVxVy (x y : Reg)
  /-- 8XY3, XOR Vx, Vy (R86). -/
  | xorVxVy (x y : Reg)
  /-- 8XY4, ADD Vx, Vy (R87). -/
  | addVxVy (x y : Reg)
  /-- 8XY5, SUB Vx, Vy (R88). -/
  | subVxVy (x y : Reg)
  /-- 8XY6, SHR Vx (R89); the `Y` field is in the word and has no effect (log 12). -/
  | shrVx (x y : Reg)
  /-- 8XY7, SUBN Vx, Vy (R90). -/
  | subnVxVy (x y : Reg)
  /-- 8XYE, SHL Vx (R91); the `Y` field is in the word and has no effect (log 12). -/
  | shlVx (x y : Reg)
  /-- 9XY0, SNE Vx, Vy (R74). -/
  | sneVxVy (x y : Reg)
  /-- ANNN, LD I, nnn (R100). -/
  | ldINnn (nnn : Addr12)
  /-- BNNN, JP V0, nnn (R65). -/
  | jpV0Nnn (nnn : Addr12)
  /-- CXNN, RND Vx, nn (R92). -/
  | rndVxNn (x : Reg) (nn : Byte)
  /-- DXYN, DRW Vx, Vy, n (R111); `n` is the row count 0..15. -/
  | drwVxVyN (x y : Reg) (n : Fin 16)
  /-- EX9E, SKP Vx (R120). -/
  | skpVx (x : Reg)
  /-- EXA1, SKNP Vx (R121). -/
  | sknpVx (x : Reg)
  /-- FX07, LD Vx, DT (R123). -/
  | ldVxDt (x : Reg)
  /-- FX0A, LD Vx, K (R122). -/
  | ldVxK (x : Reg)
  /-- FX15, LD DT, Vx (R124). -/
  | ldDtVx (x : Reg)
  /-- FX18, LD ST, Vx (R125). -/
  | ldStVx (x : Reg)
  /-- FX1E, ADD I, Vx (R101). -/
  | addIVx (x : Reg)
  /-- FX29, LD F, Vx (R102). -/
  | ldFVx (x : Reg)
  /-- FX33, LD B, Vx (R103). -/
  | ldBVx (x : Reg)
  /-- FX55, LD [I], Vx (R104); `x` is the last register stored. -/
  | ldMiVx (x : Reg)
  /-- FX65, LD Vx, [I] (R105); `x` is the last register loaded. -/
  | ldVxMi (x : Reg)
  deriving DecidableEq, Repr

/-- The mnemonic of spec/opcode_table.json (R53: a label only). -/
def Instr.mnemonic : Instr → String
  | .nop => "NOP"
  | .cls => "CLS"
  | .ret => "RET"
  | .jpNnn _ => "JP_NNN"
  | .callNnn _ => "CALL_NNN"
  | .seVxNn _ _ => "SE_VX_NN"
  | .sneVxNn _ _ => "SNE_VX_NN"
  | .seVxVy _ _ => "SE_VX_VY"
  | .ldVxNn _ _ => "LD_VX_NN"
  | .addVxNn _ _ => "ADD_VX_NN"
  | .ldVxVy _ _ => "LD_VX_VY"
  | .orVxVy _ _ => "OR_VX_VY"
  | .andVxVy _ _ => "AND_VX_VY"
  | .xorVxVy _ _ => "XOR_VX_VY"
  | .addVxVy _ _ => "ADD_VX_VY"
  | .subVxVy _ _ => "SUB_VX_VY"
  | .shrVx _ _ => "SHR_VX"
  | .subnVxVy _ _ => "SUBN_VX_VY"
  | .shlVx _ _ => "SHL_VX"
  | .sneVxVy _ _ => "SNE_VX_VY"
  | .ldINnn _ => "LD_I_NNN"
  | .jpV0Nnn _ => "JP_V0_NNN"
  | .rndVxNn _ _ => "RND_VX_NN"
  | .drwVxVyN _ _ _ => "DRW_VX_VY_N"
  | .skpVx _ => "SKP_VX"
  | .sknpVx _ => "SKNP_VX"
  | .ldVxDt _ => "LD_VX_DT"
  | .ldVxK _ => "LD_VX_K"
  | .ldDtVx _ => "LD_DT_VX"
  | .ldStVx _ => "LD_ST_VX"
  | .addIVx _ => "ADD_I_VX"
  | .ldFVx _ => "LD_F_VX"
  | .ldBVx _ => "LD_B_VX"
  | .ldMiVx _ => "LD_MI_VX"
  | .ldVxMi _ => "LD_VX_MI"

end Sys2Proof
end

