-- ==== Sys2Proof/WellFormed.lean ====
section
/-! DEFINITION. What is well formed, as checks that run. Every value of an operand type of Sys2Proof.Instr is a value its
field admits ("all sixteen values are legal", R54), so there is nothing to check of an Instr; the checks are of the raw
data a host hands the Machine: a 16-bit word against the opcode table of spec/30_encoding.md R49, and a program image
against the size limit of R55 and R171 (spec/70_reset_and_hazards.md). -/

namespace Sys2Proof

/-- One row of the opcode table R49: the word `op` is this row's when `op & mask = pat`. -/
structure OpcodeRow where
  mnemonic : String
  pat : Word
  mask : Word
  deriving DecidableEq, Repr

/-- `op & mask_i = match_i` (R48). -/
def OpcodeRow.selects (r : OpcodeRow) (op : Word) : Bool := op &&& r.mask == r.pat

/-- Class 0 to 5 of R49. -/
def rowsFlowAndSkips : List OpcodeRow := [
  ⟨"NOP", 0x0000, 0xFFFF⟩,
  ⟨"CLS", 0x00E0, 0xFFFF⟩,
  ⟨"RET", 0x00EE, 0xFFFF⟩,
  ⟨"JP_NNN", 0x1000, 0xF000⟩,
  ⟨"CALL_NNN", 0x2000, 0xF000⟩,
  ⟨"SE_VX_NN", 0x3000, 0xF000⟩,
  ⟨"SNE_VX_NN", 0x4000, 0xF000⟩,
  ⟨"SE_VX_VY", 0x5000, 0xF00F⟩]

/-- Classes 6 and 7 of R49. -/
def rowsImmediate : List OpcodeRow := [
  ⟨"LD_VX_NN", 0x6000, 0xF000⟩,
  ⟨"ADD_VX_NN", 0x7000, 0xF000⟩]

/-- Class 8 of R49. -/
def rowsRegister : List OpcodeRow := [
  ⟨"LD_VX_VY", 0x8000, 0xF00F⟩,
  ⟨"OR_VX_VY", 0x8001, 0xF00F⟩,
  ⟨"AND_VX_VY", 0x8002, 0xF00F⟩,
  ⟨"XOR_VX_VY", 0x8003, 0xF00F⟩,
  ⟨"ADD_VX_VY", 0x8004, 0xF00F⟩,
  ⟨"SUB_VX_VY", 0x8005, 0xF00F⟩,
  ⟨"SHR_VX", 0x8006, 0xF00F⟩,
  ⟨"SUBN_VX_VY", 0x8007, 0xF00F⟩,
  ⟨"SHL_VX", 0x800E, 0xF00F⟩]

/-- Classes 9 to D of R49. -/
def rowsIndexRandomDraw : List OpcodeRow := [
  ⟨"SNE_VX_VY", 0x9000, 0xF00F⟩,
  ⟨"LD_I_NNN", 0xA000, 0xF000⟩,
  ⟨"JP_V0_NNN", 0xB000, 0xF000⟩,
  ⟨"RND_VX_NN", 0xC000, 0xF000⟩,
  ⟨"DRW_VX_VY_N", 0xD000, 0xF000⟩]

/-- Classes E and F of R49. -/
def rowsKeyTimerMemory : List OpcodeRow := [
  ⟨"SKP_VX", 0xE09E, 0xF0FF⟩,
  ⟨"SKNP_VX", 0xE0A1, 0xF0FF⟩,
  ⟨"LD_VX_DT", 0xF007, 0xF0FF⟩,
  ⟨"LD_VX_K", 0xF00A, 0xF0FF⟩,
  ⟨"LD_DT_VX", 0xF015, 0xF0FF⟩,
  ⟨"LD_ST_VX", 0xF018, 0xF0FF⟩,
  ⟨"ADD_I_VX", 0xF01E, 0xF0FF⟩,
  ⟨"LD_F_VX", 0xF029, 0xF0FF⟩,
  ⟨"LD_B_VX", 0xF033, 0xF0FF⟩,
  ⟨"LD_MI_VX", 0xF055, 0xF0FF⟩,
  ⟨"LD_VX_MI", 0xF065, 0xF0FF⟩]

/-- The 35 rows of R49. It is written apart from `decode` (which follows the class map of R49), so that the two readings
of the spec check each other. -/
def opcodeTable : List OpcodeRow :=
  rowsFlowAndSkips ++ rowsImmediate ++ rowsRegister ++ rowsIndexRandomDraw ++ rowsKeyTimerMemory

/-- The word is a defined encoding: it matches a row (R48, R50). -/
def definedWord (op : Word) : Bool := opcodeTable.any (·.selects op)

/-- The program image fits above 0x200: `0x200 + len <= 4096` (R55, R171); any length up to that, odd or zero too. -/
def wellFormedImage (bytes : List Byte) : Bool := bytes.length ≤ Config.maxImage

end Sys2Proof
end

