-- ==== Sys2Proof/Decode.lean ====
section
/-! DEFINITION. Decoding (spec/30_encoding.md R46 to R50, R54), total on any bytes and rejecting by name, and after it the
encoder, written from the same formats (R47). -/

namespace Sys2Proof

/-- Why bytes are no instruction. -/
inductive Reject where
  /-- The word matches no row of R49 (R50); the word is kept, as DecodeError reports it (R142). -/
  | undefinedWord (op : Word)
  /-- Fewer than the two bytes every instruction has (R45). -/
  | truncated
  deriving DecidableEq, Repr

/-- `op[hi:lo]` of R7: the unsigned value of bits `hi` down to `lo`. -/
def slice (op : Word) (hi lo : Nat) : Nat := op.toNat / 2 ^ lo % 2 ^ (hi + 1 - lo)

/-- The field `X`, `op[11:8]` (R46). -/
def fieldX (op : Word) : Reg := Fin.ofNat 16 (slice op 11 8)

/-- The field `Y`, `op[7:4]` (R46). -/
def fieldY (op : Word) : Reg := Fin.ofNat 16 (slice op 7 4)

/-- The field `N`, `op[3:0]` (R46). -/
def fieldN (op : Word) : Fin 16 := Fin.ofNat 16 (slice op 3 0)

/-- The field `NN`, `op[7:0]` (R46). -/
def fieldNN (op : Word) : Byte := BitVec.ofNat 8 (slice op 7 0)

/-- The field `NNN`, `op[11:0]` (R46). -/
def fieldNNN (op : Word) : Addr12 := BitVec.ofNat 12 (slice op 11 0)

/-- Class 0: three words and nothing else; there is no general `0NNN` instruction (R48). -/
def decodeClass0 (op : Word) : Except Reject Instr :=
  match slice op 11 0 with
  | 0x000 => .ok .nop
  | 0x0E0 => .ok .cls
  | 0x0EE => .ok .ret
  | _ => .error (.undefinedWord op)

/-- Class 8: the sub-opcode is `op[3:0]` (R47 format XY). -/
def decodeClass8 (op : Word) : Except Reject Instr :=
  match slice op 3 0 with
  | 0x0 => .ok (.ldVxVy (fieldX op) (fieldY op))
  | 0x1 => .ok (.orVxVy (fieldX op) (fieldY op))
  | 0x2 => .ok (.andVxVy (fieldX op) (fieldY op))
  | 0x3 => .ok (.xorVxVy (fieldX op) (fieldY op))
  | 0x4 => .ok (.addVxVy (fieldX op) (fieldY op))
  | 0x5 => .ok (.subVxVy (fieldX op) (fieldY op))
  | 0x6 => .ok (.shrVx (fieldX op) (fieldY op))
  | 0x7 => .ok (.subnVxVy (fieldX op) (fieldY op))
  | 0xE => .ok (.shlVx (fieldX op) (fieldY op))
  | _ => .error (.undefinedWord op)

/-- Class E: the sub-opcode is `op[7:0]` (R47 format XS). -/
def decodeClassE (op : Word) : Except Reject Instr :=
  match slice op 7 0 with
  | 0x9E => .ok (.skpVx (fieldX op))
  | 0xA1 => .ok (.sknpVx (fieldX op))
  | _ => .error (.undefinedWord op)

/-- Class F: the sub-opcode is `op[7:0]` (R47 format XS). -/
def decodeClassF (op : Word) : Except Reject Instr :=
  match slice op 7 0 with
  | 0x07 => .ok (.ldVxDt (fieldX op))
  | 0x0A => .ok (.ldVxK (fieldX op))
  | 0x15 => .ok (.ldDtVx (fieldX op))
  | 0x18 => .ok (.ldStVx (fieldX op))
  | 0x1E => .ok (.addIVx (fieldX op))
  | 0x29 => .ok (.ldFVx (fieldX op))
  | 0x33 => .ok (.ldBVx (fieldX op))
  | 0x55 => .ok (.ldMiVx (fieldX op))
  | 0x65 => .ok (.ldVxMi (fieldX op))
  | _ => .error (.undefinedWord op)

/-- Decode of one word: "dispatch on the operation class (and sub-opcode nibbles where the class is ambiguous)" (R48), by
the class map of R49. The last nibble of 5XY0 and 9XY0 is a fixed bit pattern (R48, D8; log 19). -/
def decode (op : Word) : Except Reject Instr :=
  match slice op 15 12 with
  | 0x0 => decodeClass0 op
  | 0x1 => .ok (.jpNnn (fieldNNN op))
  | 0x2 => .ok (.callNnn (fieldNNN op))
  | 0x3 => .ok (.seVxNn (fieldX op) (fieldNN op))
  | 0x4 => .ok (.sneVxNn (fieldX op) (fieldNN op))
  | 0x5 => if slice op 3 0 = 0 then .ok (.seVxVy (fieldX op) (fieldY op)) else .error (.undefinedWord op)
  | 0x6 => .ok (.ldVxNn (fieldX op) (fieldNN op))
  | 0x7 => .ok (.addVxNn (fieldX op) (fieldNN op))
  | 0x8 => decodeClass8 op
  | 0x9 => if slice op 3 0 = 0 then .ok (.sneVxVy (fieldX op) (fieldY op)) else .error (.undefinedWord op)
  | 0xA => .ok (.ldINnn (fieldNNN op))
  | 0xB => .ok (.jpV0Nnn (fieldNNN op))
  | 0xC => .ok (.rndVxNn (fieldX op) (fieldNN op))
  | 0xD => .ok (.drwVxVyN (fieldX op) (fieldY op) (fieldN op))
  | 0xE => decodeClassE op
  | 0xF => decodeClassF op
  | _ => .error (.undefinedWord op)

/-- The instruction word of two consecutive bytes, big-endian: the byte at the lower address holds bits 15:8 (R33, R45). -/
def wordOfBytes (hi lo : Byte) : Word := BitVec.ofNat 16 (hi.toNat * 0x100 + lo.toNat)

/-- The two bytes of a word as memory holds them, lower address first (R33). -/
def bytesOfWord (op : Word) : List Byte := [BitVec.ofNat 8 (slice op 15 8), BitVec.ofNat 8 (slice op 7 0)]

/-- The instruction at the head of any bytes, and the bytes after it. -/
def decodeBytes : List Byte → Except Reject (Instr × List Byte)
  | hi :: lo :: rest =>
    match decode (wordOfBytes hi lo) with
    | .ok i => .ok (i, rest)
    | .error r => .error r
  | _ => .error .truncated

/-- The instruction the decoder reads from a word numbered as spec/opcode_table.json numbers its bits: laid out as memory
holds it and given to `decodeBytes`. Bits above `nbits` are 0. -/
def decodeTableWord (nbits w : Nat) : Option Instr :=
  match decodeBytes (bytesOfWord (BitVec.ofNat 16 (w % 2 ^ nbits))) with
  | .ok (i, _) => some i
  | .error _ => none

/-! ## The encoder: the formats of R47 -/

/-- Format A: class, NNN. -/
def encodeA (c : Nat) (nnn : Addr12) : Word := BitVec.ofNat 16 (c * 0x1000 + nnn.toNat)

/-- Format XB: class, X, NN. -/
def encodeXB (c : Nat) (x : Reg) (nn : Byte) : Word := BitVec.ofNat 16 (c * 0x1000 + x.val * 0x100 + nn.toNat)

/-- Formats XY and XYN: class, X, Y, last nibble. -/
def encodeXYN (c : Nat) (x y : Reg) (n : Nat) : Word :=
  BitVec.ofNat 16 (c * 0x1000 + x.val * 0x100 + y.val * 0x10 + n)

/-- Format XS: class, X, sub-opcode byte. -/
def encodeXS (c : Nat) (x : Reg) (sub : Nat) : Word := BitVec.ofNat 16 (c * 0x1000 + x.val * 0x100 + sub)

/-- The word of an instruction (R49). -/
def encode : Instr → Word
  | .nop => 0x0000
  | .cls => 0x00E0
  | .ret => 0x00EE
  | .jpNnn nnn => encodeA 0x1 nnn
  | .callNnn nnn => encodeA 0x2 nnn
  | .seVxNn x nn => encodeXB 0x3 x nn
  | .sneVxNn x nn => encodeXB 0x4 x nn
  | .seVxVy x y => encodeXYN 0x5 x y 0x0
  | .ldVxNn x nn => encodeXB 0x6 x nn
  | .addVxNn x nn => encodeXB 0x7 x nn
  | .ldVxVy x y => encodeXYN 0x8 x y 0x0
  | .orVxVy x y => encodeXYN 0x8 x y 0x1
  | .andVxVy x y => encodeXYN 0x8 x y 0x2
  | .xorVxVy x y => encodeXYN 0x8 x y 0x3
  | .addVxVy x y => encodeXYN 0x8 x y 0x4
  | .subVxVy x y => encodeXYN 0x8 x y 0x5
  | .shrVx x y => encodeXYN 0x8 x y 0x6
  | .subnVxVy x y => encodeXYN 0x8 x y 0x7
  | .shlVx x y => encodeXYN 0x8 x y 0xE
  | .sneVxVy x y => encodeXYN 0x9 x y 0x0
  | .ldINnn nnn => encodeA 0xA nnn
  | .jpV0Nnn nnn => encodeA 0xB nnn
  | .rndVxNn x nn => encodeXB 0xC x nn
  | .drwVxVyN x y n => encodeXYN 0xD x y n.val
  | .skpVx x => encodeXS 0xE x 0x9E
  | .sknpVx x => encodeXS 0xE x 0xA1
  | .ldVxDt x => encodeXS 0xF x 0x07
  | .ldVxK x => encodeXS 0xF x 0x0A
  | .ldDtVx x => encodeXS 0xF x 0x15
  | .ldStVx x => encodeXS 0xF x 0x18
  | .addIVx x => encodeXS 0xF x 0x1E
  | .ldFVx x => encodeXS 0xF x 0x29
  | .ldBVx x => encodeXS 0xF x 0x33
  | .ldMiVx x => encodeXS 0xF x 0x55
  | .ldVxMi x => encodeXS 0xF x 0x65

end Sys2Proof
end

