-- ==== Sys2Proof/Machine/Font.lean ====
section
/-! DEFINITION. The default value of the parameter FONT (spec/20_memory.md R32, D10). PRESUMED (log 3): the spec marks
these bytes "from general knowledge, not in source"; the Machine carries its own FONT, and only State.reset takes these. -/

namespace Sys2Proof.Machine

/-- The glyphs of the digits 0 to F, five rows each (the table after R32). -/
def defaultGlyphs : List (List Byte) := [
  [0xF0, 0x90, 0x90, 0x90, 0xF0],
  [0x20, 0x60, 0x20, 0x20, 0x70],
  [0xF0, 0x10, 0xF0, 0x80, 0xF0],
  [0xF0, 0x10, 0xF0, 0x10, 0xF0],
  [0x90, 0x90, 0xF0, 0x10, 0x10],
  [0xF0, 0x80, 0xF0, 0x10, 0xF0],
  [0xF0, 0x80, 0xF0, 0x90, 0xF0],
  [0xF0, 0x10, 0x20, 0x40, 0x40],
  [0xF0, 0x90, 0xF0, 0x90, 0xF0],
  [0xF0, 0x90, 0xF0, 0x10, 0xF0],
  [0xF0, 0x90, 0xF0, 0x90, 0x90],
  [0xE0, 0x90, 0xE0, 0x90, 0xE0],
  [0xF0, 0x80, 0x80, 0x80, 0xF0],
  [0xE0, 0x90, 0x90, 0x90, 0xE0],
  [0xF0, 0x80, 0xF0, 0x80, 0xF0],
  [0xF0, 0x80, 0xF0, 0x80, 0x80]]

/-- The default FONT: glyph `d` at `5*d` .. `5*d + 4` (R31, R32). -/
def defaultFont : Vector Byte 80 :=
  Vector.ofFn fun k => (defaultGlyphs.getD (k.val / 5) []).getD (k.val % 5) 0

end Sys2Proof.Machine
end

