-- ==== Sys2Proof/Machine/State.lean ====
section
/-! DEFINITION. All the state the spec gives the Machine (spec/10_state.md R10 to R21), as plain data, its value after
reset (R22), and the ways a step can stop. -/

namespace Sys2Proof.Machine

/-- The seven fault causes of R140 (spec/60_exceptions.md). They are what the latch FAULT holds, not reasons for a step
to stop: taking a fault is a next state (log 1). -/
inductive FaultCause where
  /-- 1: `Load` of an image longer than 3584 bytes (R144, R171). -/
  | loadTooLarge
  /-- 2: the fetched word is an undefined encoding (R50, R142). -/
  | decodeError
  /-- 3: 2NNN with a full stack (R64, R143). -/
  | stackOverflow
  /-- 4: 00EE with an empty stack (R62, R143). -/
  | stackUnderflow
  /-- 5: a `Step` that begins with `pc > 0xFFE` (R60, R141). -/
  | fetchOutOfBounds
  /-- 6: DXYN, FX33, FX55 or FX65 would touch an address above 0xFFF (R36, R106). -/
  | memOutOfBounds
  /-- 7: EX9E or EXA1 with `V[X] > 15` (R120, R121). -/
  | keyIndexOutOfRange
  deriving DecidableEq, Repr

/-- The fault record `(cause, opcode, addr)` of R20 and R140. -/
structure FaultRecord where
  cause : FaultCause
  opcode : Word
  addr : Word
  deriving DecidableEq, Repr

/-- Memory (R19, R30): the parameter FONT of this Machine, and the bytes that differ from the reset contents, as a list
of (address, byte) in the canonical form `Memory.wf`. -/
structure Memory where
  font : Vector Byte 80
  cells : List Host.Cell
  deriving DecidableEq, Repr

/-- The display: 32 rows of 64 cells, row-major, true meaning lit (R18). -/
abbrev Display := Vector (Vector Bool 64) 32

/-- The state of the Machine (R10), and one field of the model's own, `draws`. -/
structure State where
  /-- V0..VF (R11); VF is also the flag output (R12). -/
  v : Vector Byte 16
  /-- The program counter (R13); between steps the address of the next instruction. -/
  pc : Word
  /-- The index register `I` (R14). -/
  i : Word
  /-- The return stack (R15). -/
  stack : Vector Word 16
  /-- The number of stack entries in use, 0 to 16 (R15). -/
  sp : Fin 17
  /-- The delay timer (R16). -/
  dt : Byte
  /-- The sound timer (R16). -/
  st : Byte
  /-- The keys, true meaning pressed (R17). -/
  keys : Vector Bool 16
  /-- The display (R18). -/
  disp : Display
  /-- Memory (R19). -/
  mem : Memory
  /-- The fault latch FAULT (R20); while it is not `none` the Machine is halted (R150). -/
  fault : Option FaultRecord
  /-- The MODEL's own (log 2): how many random bytes CXNN has drawn; `Config.freeRand` applied to it is the next one. -/
  draws : Nat
  deriving DecidableEq, Repr

/-- Reasons for a step to stop with a fault: none. "Every mutating operation has exactly one of two outcomes: a next
state, or a fault" (R5), and the spec gives a fault an entry (R150: latch the record, halt), so the model takes it as a
next state (log 1, safe). `Outcome.fault` therefore has no inhabitant. -/
inductive Fault where
  deriving DecidableEq, Repr

/-- Reasons to refuse an instruction. -/
inductive Refusal where
  /-- Raised only by an arm of `exec` for an instruction with no meaning yet, and no arm is such; safe (it stops). -/
  | notModelled (mnemonic : String)
  deriving DecidableEq, Repr

/-- The outcome of a step or of an instruction. -/
abbrev Result := Host.Outcome State Fault Refusal

/-- The state after `Reset` of a Machine with the given FONT (R22, R170). `draws` is the model's own field (log 2). -/
def State.resetWith (font : Vector Byte 80) (draws : Nat) : State where
  v := Vector.replicate 16 0
  pc := 0x200
  i := 0
  stack := Vector.replicate 16 0
  sp := 0
  dt := 0
  st := 0
  keys := Vector.replicate 16 false
  disp := Vector.replicate 32 (Vector.replicate 64 false)
  mem := { font := font, cells := [] }
  fault := none
  draws := draws

/-- The Machine right after reset (R22), with the default FONT of R32 (PRESUMED, log 3). -/
def State.reset : State := State.resetWith defaultFont 0

end Sys2Proof.Machine
end

