-- ==== Sys2Proof/Machine/Ops.lean ====
section
/-! DEFINITION. The shared operations over memory, registers, `pc`, the stack and the display, fetching, and taking a
fault (spec/10_state.md, spec/20_memory.md, spec/40_step_and_control.md R60, spec/60_exceptions.md R150). -/

namespace Sys2Proof.Machine

/-! ## Memory (R30 to R43) -/

/-- What an address that is not listed reads as: the reset contents, FONT at 0..79 and 0 elsewhere (R19, R22; log 4). -/
def Memory.unlisted (m : Memory) (a : Nat) : Byte := if h : a < 80 then m.font[a] else 0

/-- The byte a list of cells holds at `a`, `dflt` when none is listed there. -/
def cellsFind (dflt : Byte) : List Host.Cell → Nat → Byte
  | [], _ => dflt
  | c :: rest, a => if c.1 = a then c.2 else cellsFind dflt rest a

/-- The cells with one more, before the first of a greater address. -/
def cellsInsert (c : Host.Cell) : List Host.Cell → List Host.Cell
  | [] => [c]
  | d :: rest => if c.1 < d.1 then c :: d :: rest else d :: cellsInsert c rest

/-- The cells with the byte at `a` set to `b`: whatever was listed there is replaced, and the byte `dflt` is not listed. -/
def cellsPut (dflt : Byte) (cs : List Host.Cell) (a : Nat) (b : Byte) : List Host.Cell :=
  if b = dflt then cs.filter fun c => c.1 != a else cellsInsert (a, b) (cs.filter fun c => c.1 != a)

/-- The byte at `a`. Only addresses below `Config.memSize` exist; every access of the Machine checks first (R36). -/
def Memory.readByte (m : Memory) (a : Nat) : Byte := cellsFind (m.unlisted a) m.cells a

/-- Memory with the byte at `a` replaced. -/
def Memory.writeByte (m : Memory) (a : Nat) (b : Byte) : Memory :=
  { m with cells := cellsPut (m.unlisted a) m.cells a b }

/-- Memory with `bytes` at `base`, `base + 1`, ... -/
def Memory.writeBytes (m : Memory) (base : Nat) : List Byte → Memory
  | [] => m
  | b :: rest => (m.writeByte base b).writeBytes (base + 1) rest

/-- The `n` bytes from `base` all exist; the sum is formed in unbounded integers, and no byte is always in bounds (R36). -/
def inBounds (base n : Nat) : Bool := n == 0 || base + n ≤ Config.memSize

/-- The `n` bytes at `base`, `none` when one of them does not exist (R36, R106). -/
def Memory.loadBytes (m : Memory) (base n : Nat) : Option (List Byte) :=
  if inBounds base n then some ((List.range n).map fun k => m.readByte (base + k)) else none

/-- Memory after storing `bytes` from `base`, `none` (nothing stored) when one of the addresses does not exist (R36). -/
def Memory.storeBytes (m : Memory) (base : Nat) (bytes : List Byte) : Option Memory :=
  if inBounds base bytes.length then some (m.writeBytes base bytes) else none

/-- The canonical form of memory (log 4): addresses strictly rising, each one that exists, and no cell that an unlisted
address would read as anyway. Equal memories are then equal data (Laws/Memory.lean). -/
abbrev Memory.wf (m : Memory) : Prop :=
  m.cells.Pairwise (fun c d => c.1 < d.1) ∧ ∀ c ∈ m.cells, c.1 < Config.memSize ∧ c.2 ≠ m.unlisted c.1

/-! ## Registers and `pc` (R11 to R15) -/

/-- `V[x]` (R11): no register is hard-wired. -/
def State.getV (s : State) (x : Reg) : Byte := s.v[x]

/-- `V[x] <- b` (R11). -/
def State.setV (s : State) (x : Reg) (b : Byte) : State := { s with v := s.v.set x b }

/-- A result register and then the flag register, "the result first and VF last" (R8): for `x = 0xF` VF ends as the
flag. -/
def State.setVThenFlag (s : State) (x : Reg) (result flag : Byte) : State := (s.setV x result).setV 15 flag

/-- `pc <- pc +16 2`, the advance that fetch makes before the instruction executes (R13, R60). -/
def State.advance (s : State) : State := { s with pc := s.pc + 2 }

/-- "skip next instruction" when `taken`: 2 more on the already advanced `pc` (R70). -/
def State.skipIf (s : State) (taken : Bool) : State := if taken then { s with pc := s.pc + 2 } else s

/-- Push a return address (R15): `none` when the stack is full. -/
def State.push (s : State) (ret : Word) : Option State :=
  if h : s.sp.val < 16 then
    some { s with stack := s.stack.set s.sp.val ret, sp := ⟨s.sp.val + 1, by omega⟩ }
  else none

/-- Pop into `pc` (R15): `none` when the stack is empty. The popped entry stays where it was. -/
def State.popPc (s : State) : Option State :=
  if h : 0 < s.sp.val then
    some { s with pc := s.stack[s.sp.val - 1]'(by omega), sp := ⟨s.sp.val - 1, by omega⟩ }
  else none

/-! ## The display (R18, R112) -/

/-- A display cell: column and row. -/
structure Pixel where
  x : Fin 64
  y : Fin 32
  deriving DecidableEq, Repr

/-- `disp[x][y]` (R18). -/
def Display.lit (d : Display) (p : Pixel) : Bool := d[p.y][p.x]

/-- XOR the cell with true (R111). -/
def Display.toggle (d : Display) (p : Pixel) : Display := d.set p.y (d[p.y].set p.x (!Display.lit d p))

/-- Toggle the cells one after another; the second component says whether one of them was lit (R111). -/
def Display.draw (d : Display) : List Pixel → Display × Bool
  | [] => (d, false)
  | p :: rest => ((Display.draw (Display.toggle d p) rest).1, Display.lit d p || (Display.draw (Display.toggle d p) rest).2)

/-- All cells false (R110). -/
def Display.clear : Display := Vector.replicate 32 (Vector.replicate 64 false)

/-! ## Taking a fault (R150) -/

/-- FAULT is set (R150). -/
def State.halted (s : State) : Bool := s.fault.isSome

/-- TAKING A FAULT, the one shared operation: "no architectural state changes, including `pc`" and "`FAULT` is set to the
record of rule R140" (R150). There is no handler, no saved register and no mode (R150 to R152). -/
def State.raise (s : State) (r : FaultRecord) : State := { s with fault := some r }

/-- The fault of an instruction in execution: it records the instruction's word and its own address `a`, the value of `pc`
before the advance (R140; log 9). -/
def State.raiseBy (s : State) (cause : FaultCause) (i : Instr) : State := s.raise ⟨cause, encode i, s.pc⟩

/-- RETURN FROM A FAULT: "The only way out of the halted condition is `Reset`" (R151, R170). The FONT is fixed for the life
of the Machine (D10) and the free bytes go on (log 7); everything else is the reset state whatever it was before. -/
def State.resetOp (s : State) : State := State.resetWith s.mem.font s.draws

/-! ## The random byte (R92) -/

/-- The byte the next CXNN draws: a free value (log 2). -/
def State.nextRand (s : State) : Byte := Config.freeRand s.draws

/-! ## Fetch (R33, R60) -/

/-- The two bytes at `pc`, big-endian; `none` when `pc > 0xFFE` (R33, R60). -/
def State.fetchWord (s : State) : Option Word :=
  match s.mem.loadBytes s.pc.toNat 2 with
  | some [hi, lo] => some (wordOfBytes hi lo)
  | _ => none

/-- Fetch and decode: the instruction at `pc`, or the record of the fault that fetch or decode raises (R60, R140). -/
def State.fetchInstr (s : State) : Except FaultRecord Instr :=
  match s.fetchWord with
  | none => .error ⟨.fetchOutOfBounds, 0, s.pc⟩
  | some op =>
    match decode op with
    | .ok i => .ok i
    | .error _ => .error ⟨.decodeError, op, s.pc⟩

end Sys2Proof.Machine
end

