-- ==== Sys2Proof/Machine/Flags.lean ====
section
/-! DEFINITION. Every flag computation of the spec (spec/42_alu.md R80, R87 to R91; spec/44_display.md R111). A flag is
the value 0 or 1 of VF (spec/10_state.md R12). -/

namespace Sys2Proof.Machine

/-- A flag as a byte: "always with the value 0 or 1" (R12). -/
def flagByte (b : Bool) : Byte := if b then 1 else 0

/-- Carry out of the 8-bit addition: 1 exactly when `x + y > 255` (R80, R87). -/
def carryFlag (x y : Byte) : Byte := flagByte (decide (x.toNat + y.toNat > 255))

/-- The inverted borrow of `x - y`: 1 when `x >= y`, so 1 for equal operands (R80, R88, R90; log 18). -/
def noBorrowFlag (x y : Byte) : Byte := flagByte (decide (x.toNat ≥ y.toNat))

/-- The bit a right shift by one drops, from the old value (R89). -/
def shiftedOutLow (x : Byte) : Byte := flagByte (x.getLsbD 0)

/-- The bit a left shift by one drops, from the old value (R91). -/
def shiftedOutHigh (x : Byte) : Byte := flagByte (x.getLsbD 7)

/-- The collision flag of a draw (R111). -/
def collisionFlag (collision : Bool) : Byte := flagByte collision

end Sys2Proof.Machine
end

