-- ==== Sys2Proof/Machine/Operands.lean ====
section
/-! DEFINITION. The operand forms beyond a register and an immediate: the memory range at `I` (spec/43_index_memory.md
R106), the decimal digits (R103), the register range (R104, R105), the sprite (spec/44_display.md R112), the keys
(spec/45_keypad_timers.md R120, R122). -/

namespace Sys2Proof.Machine

/-- `EA(0) = I` as an unbounded integer; `EA(k)` is `k` more, with no wrap (R106). -/
def State.baseAddr (s : State) : Nat := s.i.toNat

/-- The decimal digits of a byte, hundreds first (R103). -/
def decimalDigits (v : Byte) : List Byte :=
  [BitVec.ofNat 8 (v.toNat / 100), BitVec.ofNat 8 (v.toNat / 10 % 10), BitVec.ofNat 8 (v.toNat % 10)]

/-- `V[0]`..`V[x]`, `x + 1` bytes (R104). -/
def State.regsUpTo (s : State) (x : Reg) : List Byte := s.v.toList.take (x.val + 1)

/-- `V[i] <- bytes[i]` for every byte given; the registers above are unchanged (R105). -/
def State.loadRegs (s : State) (bytes : List Byte) : State :=
  { s with v := Vector.ofFn fun r => bytes.getD r.val s.v[r] }

/-- The display cell of sprite row `r`, column offset `k`, for a sprite at `(vx, vy)`: each coordinate is reduced on its
own, "toroidal addressing, not clipping" (R112). -/
def spritePixel (vx vy : Byte) (r k : Nat) : Pixel := ⟨Fin.ofNat 64 (vx.toNat + k), Fin.ofNat 32 (vy.toNat + r)⟩

/-- The cells that one sprite row toggles: those of its set bits, "most-significant first" (R112). -/
def spriteRow (vx vy : Byte) (r : Nat) (b : Byte) : List Pixel :=
  ((List.range 8).filter fun k => b.getLsbD (7 - k)).map (spritePixel vx vy r)

/-- The cells the rows of a sprite toggle, from row `r` on, in the order of R111's loops. -/
def spritePixels (vx vy : Byte) (r : Nat) : List Byte → List Pixel
  | [] => []
  | b :: rest => spriteRow vx vy r b ++ spritePixels vx vy (r + 1) rest

/-- The key a byte names, `none` above 15: "the key tested is the one whose index is the value of `V[X]`" (R120). -/
def keyIndex (b : Byte) : Option (Fin 16) := if h : b.toNat < 16 then some ⟨b.toNat, h⟩ else none

/-- The pressed key of least index (R122). -/
def State.firstKey (s : State) : Option (Fin 16) := (List.finRange 16).find? fun k => s.keys[k]

end Sys2Proof.Machine
end

