-- ==== Sys2Proof/Machine/Alu.lean ====
section
/-! DEFINITION. Register, arithmetic, logic, shift and random instructions (spec/42_alu.md R80 to R92). All arithmetic is
modulo 256 (R80); the operands are the values before the instruction, and VF is written last (R8). -/

namespace Sys2Proof.Machine

/-- 6XNN, LD Vx, nn (R81). -/
def execLdVxNn (x : Reg) (nn : Byte) (s : State) : Result := .next (s.advance.setV x nn)

/-- 7XNN, ADD Vx, nn (R82): no flag. -/
def execAddVxNn (x : Reg) (nn : Byte) (s : State) : Result := .next (s.advance.setV x (s.getV x + nn))

/-- 8XY0, LD Vx, Vy (R83). -/
def execLdVxVy (x y : Reg) (s : State) : Result := .next (s.advance.setV x (s.getV y))

/-- 8XY1, OR Vx, Vy (R84): no flag (D22). -/
def execOrVxVy (x y : Reg) (s : State) : Result := .next (s.advance.setV x (s.getV x ||| s.getV y))

/-- 8XY2, AND Vx, Vy (R85): no flag (D22). -/
def execAndVxVy (x y : Reg) (s : State) : Result := .next (s.advance.setV x (s.getV x &&& s.getV y))

/-- 8XY3, XOR Vx, Vy (R86): no flag (D22). -/
def execXorVxVy (x y : Reg) (s : State) : Result := .next (s.advance.setV x (s.getV x ^^^ s.getV y))

/-- 8XY4, ADD Vx, Vy (R87): VF is the carry. -/
def execAddVxVy (x y : Reg) (s : State) : Result :=
  .next (s.advance.setVThenFlag x (s.getV x + s.getV y) (carryFlag (s.getV x) (s.getV y)))

/-- 8XY5, SUB Vx, Vy (R88): VF is 1 when no borrow occurred. -/
def execSubVxVy (x y : Reg) (s : State) : Result :=
  .next (s.advance.setVThenFlag x (s.getV x - s.getV y) (noBorrowFlag (s.getV x) (s.getV y)))

/-- 8XY6, SHR Vx (R89): VX shifts, VY is not used (D22), VF is the bit shifted out, written last (C4; log 17). -/
def execShrVx (x _y : Reg) (s : State) : Result :=
  .next (s.advance.setVThenFlag x (s.getV x >>> 1) (shiftedOutLow (s.getV x)))

/-- 8XY7, SUBN Vx, Vy (R90): the reverse subtraction. -/
def execSubnVxVy (x y : Reg) (s : State) : Result :=
  .next (s.advance.setVThenFlag x (s.getV y - s.getV x) (noBorrowFlag (s.getV y) (s.getV x)))

/-- 8XYE, SHL Vx (R91): VX shifts, VY is not used (D22), VF is the bit shifted out, written last (C4; log 17). -/
def execShlVx (x _y : Reg) (s : State) : Result :=
  .next (s.advance.setVThenFlag x (s.getV x <<< 1) (shiftedOutHigh (s.getV x)))

/-- The effect of CXNN with the byte `rand` (R92). It consumes one draw (the model's own counter, log 2). -/
def rndEffect (rand : Byte) (x : Reg) (nn : Byte) (s : State) : State :=
  { s.advance.setV x (rand &&& nn) with draws := s.draws + 1 }

/-- CXNN, RND Vx, nn (R92): the random byte is a free value (log 2). -/
def execRndVxNn (x : Reg) (nn : Byte) (s : State) : Result := .next (rndEffect s.nextRand x nn s)

end Sys2Proof.Machine
end

