-- ==== Sys2Proof/Machine/Display.lean ====
section
/-! DEFINITION. The display instructions (spec/44_display.md R110 to R112). -/

namespace Sys2Proof.Machine

/-- 00E0, CLS (R110): all cells false; VF unchanged. -/
def execCls (s : State) : Result := .next { s.advance with disp := Display.clear }

/-- DXYN, DRW Vx, Vy, n (R111): the `n` bytes at `I` are the sprite; MemOutOfBounds before any cell changes; the
coordinates are the values before VF is written, and VF, the collision flag, is always written, last. -/
def execDrwVxVyN (x y : Reg) (n : Fin 16) (s : State) : Result :=
  match s.mem.loadBytes s.baseAddr n.val with
  | some rows =>
    let drawn := Display.draw s.disp (spritePixels (s.getV x) (s.getV y) 0 rows)
    .next ({ s.advance with disp := drawn.1 }.setV 15 (collisionFlag drawn.2))
  | none => .next (s.raiseBy .memOutOfBounds (.drwVxVyN x y n))

end Sys2Proof.Machine
end

