-- ==== Sys2Proof/Machine/Flow.lean ====
section
/-! DEFINITION. No-op and control transfer (spec/40_step_and_control.md R61 to R66). A meaning is given the state at the
start of the `Step`, with `pc = a`; `State.advance` makes the advance of fetch (R60; log 8). -/

namespace Sys2Proof.Machine

/-- 0000, NOP (R61): nothing but the advance of `pc`. -/
def execNop (s : State) : Result := .next s.advance

/-- 00EE, RET (R62): pop `pc`; StackUnderflow when `sp = 0`. -/
def execRet (s : State) : Result :=
  match s.advance.popPc with
  | some t => .next t
  | none => .next (s.raiseBy .stackUnderflow .ret)

/-- 1NNN, JP nnn (R63): `pc <- zext_16(NNN)`; no target is checked (R66). -/
def execJpNnn (nnn : Addr12) (s : State) : Result := .next { s.advance with pc := zext16 nnn }

/-- 2NNN, CALL nnn (R64): push the advanced `pc`, then jump; StackOverflow when `sp = 16`. -/
def execCallNnn (nnn : Addr12) (s : State) : Result :=
  match s.advance.push s.advance.pc with
  | some t => .next { t with pc := zext16 nnn }
  | none => .next (s.raiseBy .stackOverflow (.callNnn nnn))

/-- BNNN, JP V0, nnn (R65): `pc <- zext_16(V[0]) +16 zext_16(NNN)`, not reduced to 12 bits. -/
def execJpV0Nnn (nnn : Addr12) (s : State) : Result :=
  .next { s.advance with pc := zext16 (s.getV 0) + zext16 nnn }

end Sys2Proof.Machine
end

