-- ==== Sys2Proof/Machine/IndexMemory.lean ====
section
/-! DEFINITION. The index register and the loads and stores through it (spec/43_index_memory.md R100 to R106). `I` is
never changed by an access (R106). -/

namespace Sys2Proof.Machine

/-- ANNN, LD I, nnn (R100). -/
def execLdINnn (nnn : Addr12) (s : State) : Result := .next { s.advance with i := zext16 nnn }

/-- FX1E, ADD I, Vx (R101): modulo 65536, no flag (D16, D22). -/
def execAddIVx (x : Reg) (s : State) : Result := .next { s.advance with i := s.i + zext16 (s.getV x) }

/-- FX29, LD F, Vx (R102): `I <- 5 * zext_16(V[X])`, of the whole byte. -/
def execLdFVx (x : Reg) (s : State) : Result := .next { s.advance with i := 5 * zext16 (s.getV x) }

/-- The store of `bytes` from `I` on by the instruction `i`: MemOutOfBounds with nothing stored when one of the addresses
does not exist (R106). -/
def storeAtI (i : Instr) (bytes : List Byte) (s : State) : Result :=
  match s.mem.storeBytes s.baseAddr bytes with
  | some m => .next { s.advance with mem := m }
  | none => .next (s.raiseBy .memOutOfBounds i)

/-- FX33, LD B, Vx (R103). -/
def execLdBVx (x : Reg) (s : State) : Result := storeAtI (.ldBVx x) (decimalDigits (s.getV x)) s

/-- FX55, LD [I], Vx (R104): `V[k]` goes to `I + k` for `k = 0..X`. -/
def execLdMiVx (x : Reg) (s : State) : Result := storeAtI (.ldMiVx x) (s.regsUpTo x) s

/-- FX65, LD Vx, [I] (R105): MemOutOfBounds with no register written when one of the addresses does not exist. -/
def execLdVxMi (x : Reg) (s : State) : Result :=
  match s.mem.loadBytes s.baseAddr (x.val + 1) with
  | some bytes => .next (s.advance.loadRegs bytes)
  | none => .next (s.raiseBy .memOutOfBounds (.ldVxMi x))

end Sys2Proof.Machine
end

