-- ==== Sys2Proof/Machine/KeypadTimers.lean ====
section
/-! DEFINITION. The keypad and timer instructions (spec/45_keypad_timers.md R120 to R125). -/

namespace Sys2Proof.Machine

/-- EX9E, SKP Vx (R120): KeyIndexOutOfRange when `V[X] > 15` (C1, D7). -/
def execSkpVx (x : Reg) (s : State) : Result :=
  match keyIndex (s.getV x) with
  | some k => .next (s.advance.skipIf s.keys[k])
  | none => .next (s.raiseBy .keyIndexOutOfRange (.skpVx x))

/-- EXA1, SKNP Vx (R121): KeyIndexOutOfRange when `V[X] > 15` (C1, D7). -/
def execSknpVx (x : Reg) (s : State) : Result :=
  match keyIndex (s.getV x) with
  | some k => .next (s.advance.skipIf (!s.keys[k]))
  | none => .next (s.raiseBy .keyIndexOutOfRange (.sknpVx x))

/-- FX0A, LD Vx, K (R122): with no key pressed the advanced `pc` is put back by 2, so that the next `Step` executes the
instruction again; otherwise `V[X]` is the least pressed key. -/
def execLdVxK (x : Reg) (s : State) : Result :=
  match s.firstKey with
  | some k => .next (s.advance.setV x (BitVec.ofNat 8 k.val))
  | none => .next { s.advance with pc := s.advance.pc - 2 }

/-- FX07, LD Vx, DT (R123). -/
def execLdVxDt (x : Reg) (s : State) : Result := .next (s.advance.setV x s.dt)

/-- FX15, LD DT, Vx (R124). -/
def execLdDtVx (x : Reg) (s : State) : Result := .next { s.advance with dt := s.getV x }

/-- FX18, LD ST, Vx (R125): no tone-trigger event, whatever is written. -/
def execLdStVx (x : Reg) (s : State) : Result := .next { s.advance with st := s.getV x }

end Sys2Proof.Machine
end

