-- ==== Sys2Proof/Machine/Skips.lean ====
section
/-! DEFINITION. The conditional skips that compare registers (spec/41_skips.md R70 to R74). -/

namespace Sys2Proof.Machine

/-- 3XNN, SE Vx, nn (R71). -/
def execSeVxNn (x : Reg) (nn : Byte) (s : State) : Result := .next (s.advance.skipIf (s.getV x == nn))

/-- 4XNN, SNE Vx, nn (R72). -/
def execSneVxNn (x : Reg) (nn : Byte) (s : State) : Result := .next (s.advance.skipIf (s.getV x != nn))

/-- 5XY0, SE Vx, Vy (R73). -/
def execSeVxVy (x y : Reg) (s : State) : Result := .next (s.advance.skipIf (s.getV x == s.getV y))

/-- 9XY0, SNE Vx, Vy (R74). -/
def execSneVxVy (x y : Reg) (s : State) : Result := .next (s.advance.skipIf (s.getV x != s.getV y))

end Sys2Proof.Machine
end

