-- ==== Sys2Proof/Machine/Step.lean ====
section
/-! DEFINITION. The operation `Step` (spec/40_step_and_control.md R60) and where the host's word goes. -/

namespace Sys2Proof.Machine

/-- `Step(rand)` of R60 with `rand` a free value (log 2): no effect while halted (R150); else fetch, decode, execute, or
the fault that fetch or decode raises. -/
def step (s : State) : Host.Outcome State Fault Refusal :=
  if s.halted then .next s
  else
    match s.fetchInstr with
    | .ok i => exec i s
    | .error r => .next (s.raise r)

/-- The state `s` with the instruction word `w` stored where the next `Step` fetches, big-endian at `pc`, and able to
fetch it: not halted, and `pc` moved to 0x200 when it names no memory (log 5). -/
def State.withFetchWord (s : State) (nbits w : Nat) : State :=
  let at' := if s.pc.toNat + 2 ≤ Config.memSize then s.pc else 0x200
  { s with
    pc := at'
    mem := s.mem.writeBytes at'.toNat (bytesOfWord (BitVec.ofNat 16 (w % 2 ^ nbits)))
    fault := none }

end Sys2Proof.Machine
end

