-- ==== Sys2Proof/Machine/Operations.lean ====
section
/-! DEFINITION. The operations the Machine is driven through, beside `Step` (spec/00_scope.md R3, R4): `Reset`, `Load`,
`TickTimers`, `SetKey`, and the observers (spec/60_exceptions.md R145, R153 to R158; spec/70_reset_and_hazards.md R170,
R171). An interleaving of operations is a list of them (log 6). -/

namespace Sys2Proof.Machine

/-- `Step(rand)` with the byte given (R3, R60): only CXNN consumes it. -/
def State.stepWith (rand : Byte) (s : State) : State :=
  if s.halted then s
  else
    match s.fetchInstr with
    | .error r => s.raise r
    | .ok (.rndVxNn x nn) => rndEffect rand x nn s
    | .ok i =>
      match exec i s with
      | .next t => t
      | .fault _ => s
      | .refused _ => s

/-- `Load(bytes)` (R171): copy from 0x200, or LoadTooLarge with memory untouched; ignored while halted. The record has no
instruction word and no address (R140). -/
def State.load (s : State) (bytes : List Byte) : State :=
  if s.halted then s
  else
    match s.mem.storeBytes Config.programBase bytes with
    | some m => { s with mem := m }
    | none => s.raise ⟨.loadTooLarge, 0, 0⟩

/-- An output event. -/
inductive Event where
  /-- The tone-trigger of R155: no effect on state and no meaning given by the spec. -/
  | toneTrigger
  deriving DecidableEq, Repr

/-- One count of a timer, saturating at 0 (R153). -/
def countDown (t : Byte) : Byte := if t = 0 then 0 else t - 1

/-- `TickTimers` (R153) and the event it emits: the tone-trigger when it finds `ST = 1` (R155); ignored while halted. -/
def State.tickTimers (s : State) : State × Option Event :=
  if s.halted then (s, none)
  else ({ s with dt := countDown s.dt, st := countDown s.st }, if s.st = 1 then some .toneTrigger else none)

/-- `SetKey(index, pressed)` (R158); ignored while halted. -/
def State.setKey (s : State) (index : Fin 16) (pressed : Bool) : State :=
  if s.halted then s else { s with keys := s.keys.set index pressed }

/-- `GetDisplay` (R156): all cells, row by row. -/
def State.getDisplay (s : State) : Display := s.disp

/-- `GetSound` (R157): `ST > 0`. -/
def State.getSound (s : State) : Bool := decide (s.st.toNat > 0)

/-- The fault status (R145). -/
def State.faultStatus (s : State) : Option FaultRecord := s.fault

/-- The numeric code of a cause (R140, D4). -/
def FaultCause.code : FaultCause → Nat
  | .loadTooLarge => 1
  | .decodeError => 2
  | .stackOverflow => 3
  | .stackUnderflow => 4
  | .fetchOutOfBounds => 5
  | .memOutOfBounds => 6
  | .keyIndexOutOfRange => 7

/-- The mutating operations (R3). -/
inductive Operation where
  | reset
  | load (bytes : List Byte)
  | step (rand : Byte)
  | tickTimers
  | setKey (index : Fin 16) (pressed : Bool)
  deriving DecidableEq, Repr

/-- One operation: the next state and the event it emits, if any. Only `TickTimers` emits one (R155). -/
def Operation.apply (op : Operation) (s : State) : State × Option Event :=
  match op with
  | .reset => (s.resetOp, none)
  | .load bytes => (s.load bytes, none)
  | .step rand => (s.stepWith rand, none)
  | .tickTimers => s.tickTimers
  | .setKey index pressed => (s.setKey index pressed, none)

/-- The state after operations issued one after another (R4: "strictly sequentially"). -/
def State.after (s : State) : List Operation → State
  | [] => s
  | op :: rest => (op.apply s).1.after rest

end Sys2Proof.Machine
end

