-- ==== Sys2Proof/Safety.lean ====
section
/-! DEFINITION. What counts as a good state and a good run, in the terms the claims use. -/

namespace Sys2Proof.Machine

/-- The ranges of R13 ("the largest values any instruction can leave in `pc`", 0x10FE; a pushed address is at most 0x1000)
and the canonical form of memory (log 4). -/
structure Inv (s : State) : Prop where
  mem_wf : s.mem.wf
  pc_le : s.pc.toNat ≤ 0x10FE
  stack_le : ∀ k : Fin 16, s.stack[k].toNat ≤ 0x1000

/-- The latched record is true of the state it froze (R20, R140, R150): the address is the `pc` kept, and the opcode is
the word that is fetched there; LoadTooLarge has neither, FetchOutOfBounds has no word. -/
def FaultRecordTrue (s : State) : Prop :=
  match s.fault with
  | none => True
  | some ⟨.loadTooLarge, opcode, addr⟩ => opcode = 0 ∧ addr = 0
  | some ⟨.fetchOutOfBounds, opcode, addr⟩ => opcode = 0 ∧ addr = s.pc ∧ s.fetchWord = none
  | some ⟨_, opcode, addr⟩ => addr = s.pc ∧ s.fetchWord = some opcode

/-- A program has finished (R180, D18: a convention for claims): not halted, and `pc = a` holds a jump to `a` itself. -/
def Finished (s : State) : Prop :=
  s.fault = none ∧ ∃ nnn : Addr12, s.fetchInstr = .ok (.jpNnn nnn) ∧ zext16 nnn = s.pc

/-- The states a Machine can be in: those after any operations issued after a reset, whatever the FONT (R172, R4). -/
def Reachable (s : State) : Prop := ∃ font draws ops, s = (State.resetWith font draws).after ops

/-- A safe run: no operation of it leaves the Machine halted (R150, R180: a halted Machine is never a finished run). -/
def SafeRun (s : State) (ops : List Operation) : Prop := ∀ n, (s.after (ops.take n)).fault = none

/-- The driver contract of R173, of the operations issued after a reset: one `Load` before anything else, then any
interleaving of `Step`, `TickTimers` and `SetKey`. -/
def DriverContract : List Operation → Prop
  | .load _ :: rest => ∀ op ∈ rest, (∃ rand, op = .step rand) ∨ op = .tickTimers ∨ ∃ k pressed, op = .setKey k pressed
  | _ => False

/-- The parts of the state (R10), and the model's own draw counter. -/
inductive Part where
  | v | pc | i | stack | sp | dt | st | keys | disp | mem | fault | draws
  deriving DecidableEq, Repr

/-- Every part not listed is the same in `t` as in `s`; an unchanged memory also reads the same at every address. FONT is
no part: it is "fixed for the life of a Machine" (R32, D10), so it is the same whatever is listed, `mem` too. -/
structure UnchangedExcept (parts : List Part) (s t : State) : Prop where
  v : .v ∉ parts → t.v = s.v
  pc : .pc ∉ parts → t.pc = s.pc
  i : .i ∉ parts → t.i = s.i
  stack : .stack ∉ parts → t.stack = s.stack
  sp : .sp ∉ parts → t.sp = s.sp
  dt : .dt ∉ parts → t.dt = s.dt
  st : .st ∉ parts → t.st = s.st
  keys : .keys ∉ parts → t.keys = s.keys
  disp : .disp ∉ parts → t.disp = s.disp
  mem : .mem ∉ parts → t.mem = s.mem
  bytes : .mem ∉ parts → ∀ a, t.mem.readByte a = s.mem.readByte a
  fault : .fault ∉ parts → t.fault = s.fault
  draws : .draws ∉ parts → t.draws = s.draws
  font : t.mem.font = s.mem.font

/-- The parts beside `pc` and the latch that an instruction may write: the row "`Step`, all instructions" of R23, with
R11's table for V and R18, R19 for `disp` and `mem`. -/
def writes : Instr → List Part
  | .nop => []
  | .cls => [.disp]
  | .ret => [.sp]
  | .jpNnn _ => []
  | .callNnn _ => [.stack, .sp]
  | .seVxNn _ _ => []
  | .sneVxNn _ _ => []
  | .seVxVy _ _ => []
  | .ldVxNn _ _ => [.v]
  | .addVxNn _ _ => [.v]
  | .ldVxVy _ _ => [.v]
  | .orVxVy _ _ => [.v]
  | .andVxVy _ _ => [.v]
  | .xorVxVy _ _ => [.v]
  | .addVxVy _ _ => [.v]
  | .subVxVy _ _ => [.v]
  | .shrVx _ _ => [.v]
  | .subnVxVy _ _ => [.v]
  | .shlVx _ _ => [.v]
  | .sneVxVy _ _ => []
  | .ldINnn _ => [.i]
  | .jpV0Nnn _ => []
  | .rndVxNn _ _ => [.v, .draws]
  | .drwVxVyN _ _ _ => [.v, .disp]
  | .skpVx _ => []
  | .sknpVx _ => []
  | .ldVxDt _ => [.v]
  | .ldVxK _ => [.v]
  | .ldDtVx _ => [.dt]
  | .ldStVx _ => [.st]
  | .addIVx _ => [.i]
  | .ldFVx _ => [.i]
  | .ldBVx _ => [.mem]
  | .ldMiVx _ => [.mem]
  | .ldVxMi _ => [.v]

/-- The registers an instruction may write: R11's table of accesses, with VF for the six that write it as a flag (R12). -/
def writesReg (r : Reg) : Instr → Prop
  | .nop => False
  | .cls => False
  | .ret => False
  | .jpNnn _ => False
  | .callNnn _ => False
  | .seVxNn _ _ => False
  | .sneVxNn _ _ => False
  | .seVxVy _ _ => False
  | .ldVxNn x _ => r = x
  | .addVxNn x _ => r = x
  | .ldVxVy x _ => r = x
  | .orVxVy x _ => r = x
  | .andVxVy x _ => r = x
  | .xorVxVy x _ => r = x
  | .addVxVy x _ => r = x ∨ r = 15
  | .subVxVy x _ => r = x ∨ r = 15
  | .shrVx x _ => r = x ∨ r = 15
  | .subnVxVy x _ => r = x ∨ r = 15
  | .shlVx x _ => r = x ∨ r = 15
  | .sneVxVy _ _ => False
  | .ldINnn _ => False
  | .jpV0Nnn _ => False
  | .rndVxNn x _ => r = x
  | .drwVxVyN _ _ _ => r = 15
  | .skpVx _ => False
  | .sknpVx _ => False
  | .ldVxDt x => r = x
  | .ldVxK x => r = x
  | .ldDtVx _ => False
  | .ldStVx _ => False
  | .addIVx _ => False
  | .ldFVx _ => False
  | .ldBVx _ => False
  | .ldMiVx _ => False
  | .ldVxMi x => r ≤ x

/-- The bytes of memory an instruction stores to (R103, R104): those at `EA(k)` of R106, `k = 0..2` for FX33 and `k = 0..X`
for FX55; no other instruction stores (R19). -/
def writesByte (s : State) (a : Nat) : Instr → Prop
  | .nop => False
  | .cls => False
  | .ret => False
  | .jpNnn _ => False
  | .callNnn _ => False
  | .seVxNn _ _ => False
  | .sneVxNn _ _ => False
  | .seVxVy _ _ => False
  | .ldVxNn _ _ => False
  | .addVxNn _ _ => False
  | .ldVxVy _ _ => False
  | .orVxVy _ _ => False
  | .andVxVy _ _ => False
  | .xorVxVy _ _ => False
  | .addVxVy _ _ => False
  | .subVxVy _ _ => False
  | .shrVx _ _ => False
  | .subnVxVy _ _ => False
  | .shlVx _ _ => False
  | .sneVxVy _ _ => False
  | .ldINnn _ => False
  | .jpV0Nnn _ => False
  | .rndVxNn _ _ => False
  | .drwVxVyN _ _ _ => False
  | .skpVx _ => False
  | .sknpVx _ => False
  | .ldVxDt _ => False
  | .ldVxK _ => False
  | .ldDtVx _ => False
  | .ldStVx _ => False
  | .addIVx _ => False
  | .ldFVx _ => False
  | .ldBVx _ => s.baseAddr ≤ a ∧ a ≤ s.baseAddr + 2
  | .ldMiVx x => s.baseAddr ≤ a ∧ a ≤ s.baseAddr + x.val
  | .ldVxMi _ => False

/-- The fault an instruction raises in a state, by the conditions of R140's table (each instruction has at most one). -/
def faultOf (s : State) : Instr → Option FaultCause
  | .nop => none
  | .cls => none
  | .ret => if s.sp.val = 0 then some .stackUnderflow else none
  | .jpNnn _ => none
  | .callNnn _ => if s.sp.val = 16 then some .stackOverflow else none
  | .seVxNn _ _ => none
  | .sneVxNn _ _ => none
  | .seVxVy _ _ => none
  | .ldVxNn _ _ => none
  | .addVxNn _ _ => none
  | .ldVxVy _ _ => none
  | .orVxVy _ _ => none
  | .andVxVy _ _ => none
  | .xorVxVy _ _ => none
  | .addVxVy _ _ => none
  | .subVxVy _ _ => none
  | .shrVx _ _ => none
  | .subnVxVy _ _ => none
  | .shlVx _ _ => none
  | .sneVxVy _ _ => none
  | .ldINnn _ => none
  | .jpV0Nnn _ => none
  | .rndVxNn _ _ => none
  | .drwVxVyN _ _ n => if n.val > 0 ∧ s.i.toNat + n.val - 1 > 0xFFF then some .memOutOfBounds else none
  | .skpVx x => if (s.getV x).toNat > 15 then some .keyIndexOutOfRange else none
  | .sknpVx x => if (s.getV x).toNat > 15 then some .keyIndexOutOfRange else none
  | .ldVxDt _ => none
  | .ldVxK _ => none
  | .ldDtVx _ => none
  | .ldStVx _ => none
  | .addIVx _ => none
  | .ldFVx _ => none
  | .ldBVx _ => if s.i.toNat + 2 > 0xFFF then some .memOutOfBounds else none
  | .ldMiVx x => if s.i.toNat + x.val > 0xFFF then some .memOutOfBounds else none
  | .ldVxMi x => if s.i.toNat + x.val > 0xFFF then some .memOutOfBounds else none

/-- Row `r`, column offset `k` of a sprite of `n` rows at `I` has its bit set and falls on the cell `p`, for the sprite
origin `(vx, vy)`: the target cell of R111 and R112, `((VX + k) mod 64, (VY + r) mod 32)`. -/
def SpriteCovers (s : State) (vx vy : Byte) (n : Nat) (p : Pixel) : Prop :=
  ∃ r k, r < n ∧ k < 8 ∧ (s.mem.readByte (s.i.toNat + r)).getLsbD (7 - k) = true ∧
    p.x.val = (vx.toNat + k) % 64 ∧ p.y.val = (vy.toNat + r) % 32

end Sys2Proof.Machine
end

