-- ==== Sys2Proof/Certificates/Slice0/Obligations.lean ====
section
/-! DEFINITION. The statements for the provers, from the rules of spec/. A docstring names the rule and says where a clause
rests on a decision of the spec's own (D<n>) or on a choice of the model's (log <n>). `UnchangedExcept [...] s t` is a
frame: every part of the state not listed is the same, memory byte by byte too, and FONT is the same whatever is listed. -/

open Sys2Proof Sys2Proof.Machine

/-! ## Encoding (spec/30_encoding.md) -/

/-- R45 to R49, R54: the decoder reads back every instruction the encoder writes, whatever the operands; no bit of an
encoding is dropped. Every `Instr` is well formed (log 13), so there is no hypothesis. -/
def Obligations.EncodeThenDecodeIsIdentity : Prop :=
  ∀ i : Instr, decode (encode i) = .ok i

/-- R49: an instruction that a word decodes to encodes to that word, so a word has one meaning and an instruction one word.
The ignored `Y` nibble of 8XY6 and 8XYE is kept (log 12). -/
def Obligations.DecodeThenEncodeIsIdentity : Prop :=
  ∀ (op : Word) (i : Instr), decode op = .ok i → encode i = op

/-- R48, R50 (exact match on the pairs is the spec's decision D8): a word decodes to the instruction of a row of R49 that
selects it, and is rejected as undefined exactly when no row selects it. -/
def Obligations.DecodeFollowsTheOpcodeTable : Prop :=
  ∀ op : Word,
    (∀ i, decode op = .ok i → ∃ r ∈ opcodeTable, r.mnemonic = i.mnemonic ∧ r.selects op = true) ∧
    (decode op = .error (.undefinedWord op) ↔ ∀ r ∈ opcodeTable, r.selects op = false)

/-- R48: "The pairs are mutually exclusive (no word matches two)". -/
def Obligations.OpcodeRowsAreMutuallyExclusive : Prop :=
  ∀ (op : Word) (r r' : OpcodeRow), r ∈ opcodeTable → r' ∈ opcodeTable →
    r.selects op = true → r'.selects op = true → r = r'

/-- R33, R45: an instruction is the two bytes of its word, high byte first, and the decoder of bytes takes exactly these. -/
def Obligations.DecodeBytesTakesTwoBytesHighFirst : Prop :=
  ∀ (hi lo : Byte) (rest : List Byte) (i : Instr),
    decodeBytes (hi :: lo :: rest) = .ok (i, rest) ↔ (encode i).toNat = hi.toNat * 256 + lo.toNat

/-- R49: words written out from the patterns decode to the instructions they stand for, one of each format and one of each
family; 5121 and 0123 are undefined (D8). -/
def Obligations.SampleWordsDecode : Prop :=
  decode 0x00EE = .ok .ret ∧ decode 0x2ABC = .ok (.callNnn 0xABC) ∧ decode 0x3A42 = .ok (.seVxNn 0xA 0x42) ∧
  decode 0x8AB7 = .ok (.subnVxVy 0xA 0xB) ∧ decode 0xD123 = .ok (.drwVxVyN 1 2 3) ∧
  decode 0xE3A1 = .ok (.sknpVx 3) ∧ decode 0xF51E = .ok (.addIVx 5) ∧
  decode 0x5121 = .error (.undefinedWord 0x5121) ∧ decode 0x0123 = .error (.undefinedWord 0x0123)

/-! ## The Step cycle (spec/40_step_and_control.md R60) and faults (spec/60_exceptions.md) -/

/-- R60, R33: when the two bytes at `pc`, the lower address high, decode to `i`, the step is the execution of `i` on this
state (`exec` itself makes the advance of `pc` by 2, log 8). -/
def Obligations.StepRunsTheDecodedInstruction : Prop :=
  ∀ (s : State) (i : Instr), s.fault = none → s.pc.toNat ≤ 0xFFE →
    decode (wordOfBytes (s.mem.readByte s.pc.toNat) (s.mem.readByte (s.pc.toNat + 1))) = .ok i →
    step s = exec i s

/-- R60, R141, R140 (the fault is the spec's decision D5, the latch D2): a `Step` that begins with `pc > 0xFFE` changes
nothing but FAULT, which records no opcode and the `pc`. -/
def Obligations.FetchPastTheEndLatchesFetchOutOfBounds : Prop :=
  ∀ s : State, s.fault = none → s.pc.toNat > 0xFFE →
    step s = .next { s with fault := some { cause := .fetchOutOfBounds, opcode := 0, addr := s.pc } }

/-- R50, R142, R140 (the latch is D2, precision D3): executing an undefined word changes nothing but FAULT, which records
the word and its address. -/
def Obligations.UndefinedWordLatchesDecodeError : Prop :=
  ∀ s : State, s.fault = none → s.pc.toNat ≤ 0xFFE →
    definedWord (wordOfBytes (s.mem.readByte s.pc.toNat) (s.mem.readByte (s.pc.toNat + 1))) = false →
    step s = .next { s with fault := some {
      cause := .decodeError
      opcode := wordOfBytes (s.mem.readByte s.pc.toNat) (s.mem.readByte (s.pc.toNat + 1))
      addr := s.pc } }

/-- R150 (D2): while FAULT is set, `Step`, `TickTimers`, `SetKey` and `Load` change nothing and emit nothing. -/
def Obligations.HaltedMachineIgnoresAllButReset : Prop :=
  ∀ s : State, s.fault ≠ none →
    step s = .next s ∧ ∀ op : Operation, op ≠ .reset → op.apply s = (s, none)

/-- R5, R178: every `Step` completes, in every state: there is no third outcome, no block and no refusal. (A fault is a next
state with the latch set: log 1.) -/
def Obligations.StepAlwaysAnswersANextState : Prop :=
  ∀ s : State, ∃ t, step s = .next t

/-- R150, R140 (D3): a `Step` that faults keeps all state, `pc` included, and records the address of the faulting
instruction and the fetched word (0 when none was fetched). -/
def Obligations.FaultingStepIsPrecise : Prop :=
  ∀ (s t : State) (r : FaultRecord), s.fault = none → step s = .next t → t.fault = some r →
    t = { s with fault := some r } ∧ r.addr = s.pc ∧ r.opcode = (s.fetchWord).getD 0

/-- R140's table, R149 (causes 6 and 7 are D6, D7): executing an instruction latches a fault exactly under its listed
condition, with its own word and address, and then changes nothing else. -/
def Obligations.InstructionsFaultExactlyAsListed : Prop :=
  ∀ (i : Instr) (s t : State), exec i s = .next t →
    (∀ c, faultOf s i = some c → t = { s with fault := some { cause := c, opcode := encode i, addr := s.pc } }) ∧
    (faultOf s i = none → t.fault = s.fault)

/-- R23, R11, R12, R18, R19 (the table of effects is closed: D22): an instruction that does not fault writes `pc`, the
registers, the bytes of memory and the other parts its row lists, and nothing else; FONT is kept (R32, D10). The bytes are
those that FX33 and FX55 store to, `I..I+2` and `I..I+X`; every other instruction stores none. -/
def Obligations.InstructionsChangeOnlyWhatTheyList : Prop :=
  ∀ (i : Instr) (s t : State), exec i s = .next t → faultOf s i = none →
    UnchangedExcept (.pc :: writes i) s t ∧ (∀ r, ¬ writesReg r i → t.getV r = s.getV r) ∧
    ∀ a, ¬ writesByte s a i → t.mem.readByte a = s.mem.readByte a

/-- R12: the six instructions that write VF as a flag leave 0 or 1 in it ("always with the value 0 or 1"), whichever
registers they name, when they complete. -/
def Obligations.FlagIsZeroOrOne : Prop :=
  ∀ (i : Instr) (x y : Reg) (n : Fin 16) (s t : State),
    i ∈ [.addVxVy x y, .subVxVy x y, .shrVx x y, .subnVxVy x y, .shlVx x y, .drwVxVyN x y n] →
    exec i s = .next t → faultOf s i = none → t.getV 15 = 0 ∨ t.getV 15 = 1

/-- R3, R60, R92: the fixed-name step is `Step(rand)` with `rand` the free byte of log 2 (the model's form of the draw). -/
def Obligations.StepIsStepWithTheFreeByte : Prop :=
  ∀ s : State, step s = .next (s.stepWith s.nextRand)

/-- R60, last sentence: `rand` is consumed only when the instruction is CXNN; every other `Step` is the same for every
`rand`. -/
def Obligations.RandMattersOnlyToRnd : Prop :=
  ∀ (s : State) (rand rand' : Byte), (∀ x nn, s.fetchInstr ≠ .ok (.rndVxNn x nn)) →
    s.stepWith rand = s.stepWith rand'

/-! ## No-op and control transfer (spec/40_step_and_control.md) -/

/-- R61: the word 0000, and no other, is NOP; it completes and changes nothing but `pc`, to `a + 2`. -/
def Obligations.NopOnlyAdvancesPc : Prop :=
  (∀ op : Word, decode op = .ok .nop ↔ op = 0) ∧
  ∀ s : State, ∃ t, exec .nop s = .next t ∧ t.pc.toNat = (s.pc.toNat + 2) % 65536 ∧ UnchangedExcept [.pc] s t

/-- R63: JP completes for every target, odd ones and 0xFFF too, and only sets `pc` to `NNN`, zero-extended. -/
def Obligations.JumpSetsPcToNnn : Prop :=
  ∀ (nnn : Addr12) (s : State), ∃ t, exec (.jpNnn nnn) s = .next t ∧ t.pc.toNat = nnn.toNat ∧ UnchangedExcept [.pc] s t

/-- R65 (that the sum is not reduced is D21): JP V0 completes and only sets `pc` to `V[0] + NNN`, which may be past the end
of memory. -/
def Obligations.IndexedJumpAddsV0 : Prop :=
  ∀ (nnn : Addr12) (s : State), ∃ t, exec (.jpV0Nnn nnn) s = .next t ∧
    t.pc.toNat = (s.getV 0).toNat + nnn.toNat ∧ UnchangedExcept [.pc] s t

/-- R64, R15 (which slot is written is D15): CALL with room on the stack completes: it stores `a + 2` in the entry `sp`,
counts it, and jumps; every other entry is unchanged. -/
def Obligations.CallPushesTheReturnAddress : Prop :=
  ∀ (nnn : Addr12) (s : State), s.sp.val < 16 → ∃ t, exec (.callNnn nnn) s = .next t ∧
    t.pc.toNat = nnn.toNat ∧ t.sp.val = s.sp.val + 1 ∧
    (∀ k : Fin 16, t.stack[k] = if k.val = s.sp.val then s.pc + 2 else s.stack[k]) ∧
    UnchangedExcept [.pc, .sp, .stack] s t

/-- R62, R15: RET with an entry on the stack completes: it takes `pc` from the newest entry and counts it off. -/
def Obligations.ReturnPopsTheNewestAddress : Prop :=
  ∀ (s : State) (k : Fin 16), s.sp.val = k.val + 1 → ∃ t, exec .ret s = .next t ∧
    t.pc = s.stack[k] ∧ t.sp.val = k.val ∧ UnchangedExcept [.pc, .sp] s t

/-- R62, R64, R143, R140 (the latch is D2, precision D3): CALL with 16 entries and RET with none change nothing but FAULT. -/
def Obligations.StackLimitsLatchFaults : Prop :=
  (∀ (nnn : Addr12) (s : State), s.sp.val = 16 → exec (.callNnn nnn) s = .next
    { s with fault := some { cause := .stackOverflow, opcode := encode (.callNnn nnn), addr := s.pc } }) ∧
  ∀ s : State, s.sp.val = 0 → exec .ret s = .next
    { s with fault := some { cause := .stackUnderflow, opcode := 0x00EE, addr := s.pc } }

/-- The source's stack round-trip (S8 of spec/95_test_vectors.md, R62, R64): a CALL that completes, then a RET, gives back
the state, at the address after the call, but for the one stale stack entry, the slot the call wrote (unobservable, D15). -/
def Obligations.CallThenReturnRestoresPc : Prop :=
  ∀ (nnn : Addr12) (s t : State), s.sp.val < 16 → exec (.callNnn nnn) s = .next t →
    ∃ u, exec .ret t = .next u ∧ u.pc = s.pc + 2 ∧ u.sp = s.sp ∧
      (∀ k : Fin 16, k.val ≠ s.sp.val → u.stack[k] = s.stack[k]) ∧ UnchangedExcept [.pc, .stack] s u

/-! ## Skips (spec/41_skips.md) -/

/-- R71, R72, R70: SE and SNE with an immediate complete and change only `pc`: `a + 4` when the register is equal
(unequal) to the byte, `a + 2` otherwise. -/
def Obligations.ImmediateSkips : Prop :=
  ∀ (x : Reg) (nn : Byte) (s : State),
    (∃ t, exec (.seVxNn x nn) s = .next t ∧ UnchangedExcept [.pc] s t ∧
      t.pc.toNat = (s.pc.toNat + if (s.getV x).toNat = nn.toNat then 4 else 2) % 65536) ∧
    ∃ t, exec (.sneVxNn x nn) s = .next t ∧ UnchangedExcept [.pc] s t ∧
      t.pc.toNat = (s.pc.toNat + if (s.getV x).toNat = nn.toNat then 2 else 4) % 65536

/-- R73, R74, R70: the same of two registers. -/
def Obligations.RegisterSkips : Prop :=
  ∀ (x y : Reg) (s : State),
    (∃ t, exec (.seVxVy x y) s = .next t ∧ UnchangedExcept [.pc] s t ∧
      t.pc.toNat = (s.pc.toNat + if (s.getV x).toNat = (s.getV y).toNat then 4 else 2) % 65536) ∧
    ∃ t, exec (.sneVxVy x y) s = .next t ∧ UnchangedExcept [.pc] s t ∧
      t.pc.toNat = (s.pc.toNat + if (s.getV x).toNat = (s.getV y).toNat then 2 else 4) % 65536

/-! ## Register instructions (spec/42_alu.md) -/

/-- R81, R83: the two loads complete: `V[X]` is the byte, or the old `V[Y]`; no other register (VF included, unless named)
and nothing else but `pc` changes. -/
def Obligations.RegisterLoads : Prop :=
  ∀ (x y : Reg) (nn : Byte) (s : State),
    (∃ t, exec (.ldVxNn x nn) s = .next t ∧ t.pc = s.pc + 2 ∧ UnchangedExcept [.pc, .v] s t ∧
      ∀ r, t.getV r = if r = x then nn else s.getV r) ∧
    ∃ t, exec (.ldVxVy x y) s = .next t ∧ t.pc = s.pc + 2 ∧ UnchangedExcept [.pc, .v] s t ∧
      ∀ r, t.getV r = if r = x then s.getV y else s.getV r

/-- R82, R80: ADD of an immediate completes and wraps modulo 256; no other register changes, so VF is no carry. -/
def Obligations.ImmediateAddWrapsWithNoFlag : Prop :=
  ∀ (x : Reg) (nn : Byte) (s : State), ∃ t, exec (.addVxNn x nn) s = .next t ∧
    (t.getV x).toNat = ((s.getV x).toNat + nn.toNat) % 256 ∧ (∀ r, r ≠ x → t.getV r = s.getV r) ∧
    t.pc = s.pc + 2 ∧ UnchangedExcept [.pc, .v] s t

/-- R84, R85, R86 (that VF is left alone is D22): OR, AND, XOR complete, bit by bit of the old values. -/
def Obligations.LogicIsBitwiseWithNoFlag : Prop :=
  ∀ (x y : Reg) (s : State),
    (∃ t, exec (.orVxVy x y) s = .next t ∧ t.pc = s.pc + 2 ∧ UnchangedExcept [.pc, .v] s t ∧
      (∀ k, (t.getV x).getLsbD k = ((s.getV x).getLsbD k || (s.getV y).getLsbD k)) ∧ ∀ r, r ≠ x → t.getV r = s.getV r) ∧
    (∃ t, exec (.andVxVy x y) s = .next t ∧ t.pc = s.pc + 2 ∧ UnchangedExcept [.pc, .v] s t ∧
      (∀ k, (t.getV x).getLsbD k = ((s.getV x).getLsbD k && (s.getV y).getLsbD k)) ∧ ∀ r, r ≠ x → t.getV r = s.getV r) ∧
    ∃ t, exec (.xorVxVy x y) s = .next t ∧ t.pc = s.pc + 2 ∧ UnchangedExcept [.pc, .v] s t ∧
      (∀ k, (t.getV x).getLsbD k = ((s.getV x).getLsbD k ^^ (s.getV y).getLsbD k)) ∧ ∀ r, r ≠ x → t.getV r = s.getV r

/-- R87, R80, R8: ADD completes: the sum modulo 256 in `V[X]`, then the carry in VF, which is what VF holds when
`X = 0xF`; both from the old values. -/
def Obligations.AddGivesSumAndCarry : Prop :=
  ∀ (x y : Reg) (s : State), ∃ t, exec (.addVxVy x y) s = .next t ∧
    (t.getV 15).toNat = (if (s.getV x).toNat + (s.getV y).toNat > 255 then 1 else 0) ∧
    (x ≠ 15 → (t.getV x).toNat = ((s.getV x).toNat + (s.getV y).toNat) % 256) ∧
    (∀ r, r ≠ x → r ≠ 15 → t.getV r = s.getV r) ∧ t.pc = s.pc + 2 ∧ UnchangedExcept [.pc, .v] s t

/-- R88, R90, R80, R8: SUB and SUBN complete: the difference modulo 256 in `V[X]`, then in VF 1 when the minuend is at
least the subtrahend (equal operands borrow nothing) and 0 otherwise; both from the old values. -/
def Obligations.SubtractionsGiveDifferenceAndNoBorrow : Prop :=
  ∀ (x y : Reg) (s : State),
    (∃ t, exec (.subVxVy x y) s = .next t ∧
      (t.getV 15).toNat = (if (s.getV x).toNat ≥ (s.getV y).toNat then 1 else 0) ∧
      (x ≠ 15 → (t.getV x).toNat = ((s.getV x).toNat + 256 - (s.getV y).toNat) % 256) ∧
      (∀ r, r ≠ x → r ≠ 15 → t.getV r = s.getV r) ∧ t.pc = s.pc + 2 ∧ UnchangedExcept [.pc, .v] s t) ∧
    ∃ t, exec (.subnVxVy x y) s = .next t ∧
      (t.getV 15).toNat = (if (s.getV y).toNat ≥ (s.getV x).toNat then 1 else 0) ∧
      (x ≠ 15 → (t.getV x).toNat = ((s.getV y).toNat + 256 - (s.getV x).toNat) % 256) ∧
      (∀ r, r ≠ x → r ≠ 15 → t.getV r = s.getV r) ∧ t.pc = s.pc + 2 ∧ UnchangedExcept [.pc, .v] s t

/-- R89, R91, R8 (that VY is not used is D22; flag last is conflict C4, log 17): SHR and SHL complete: VX halves, or
doubles modulo 256, and VF is then the bit shifted out of the old VX. -/
def Obligations.ShiftsMoveVxAndKeepTheLostBit : Prop :=
  ∀ (x y : Reg) (s : State),
    (∃ t, exec (.shrVx x y) s = .next t ∧
      (t.getV 15).toNat = (s.getV x).toNat % 2 ∧ (x ≠ 15 → (t.getV x).toNat = (s.getV x).toNat / 2) ∧
      (∀ r, r ≠ x → r ≠ 15 → t.getV r = s.getV r) ∧ t.pc = s.pc + 2 ∧ UnchangedExcept [.pc, .v] s t) ∧
    ∃ t, exec (.shlVx x y) s = .next t ∧
      (t.getV 15).toNat = (s.getV x).toNat / 128 ∧ (x ≠ 15 → (t.getV x).toNat = 2 * (s.getV x).toNat % 256) ∧
      (∀ r, r ≠ x → r ≠ 15 → t.getV r = s.getV r) ∧ t.pc = s.pc + 2 ∧ UnchangedExcept [.pc, .v] s t

/-- R92 (D9): RND completes: `V[X]` is the free byte (log 2) masked by `NN`, so no bit outside `NN` is set, and the
model's own counter `draws` goes on by one, so the next RND draws anew; the same for every byte a host gives `Step(rand)`;
no flag. Nothing rests on a value of the free byte. -/
def Obligations.RndMasksAnyByte : Prop :=
  ∀ (x : Reg) (nn : Byte) (s : State),
    (∃ t, exec (.rndVxNn x nn) s = .next t ∧ t.getV x = s.nextRand &&& nn ∧ t.getV x &&& ~~~nn = 0 ∧
      t.draws = s.draws + 1 ∧ (∀ r, r ≠ x → t.getV r = s.getV r) ∧
      t.pc = s.pc + 2 ∧ UnchangedExcept [.pc, .v, .draws] s t) ∧
    (s.fault = none → s.fetchInstr = .ok (.rndVxNn x nn) → ∀ rand : Byte,
      (s.stepWith rand).getV x = rand &&& nn ∧ (s.stepWith rand).draws = s.draws + 1 ∧
      (∀ r, r ≠ x → (s.stepWith rand).getV r = s.getV r) ∧
      (s.stepWith rand).pc = s.pc + 2 ∧ UnchangedExcept [.pc, .v, .draws] s (s.stepWith rand))

/-! ## Index register and memory (spec/43_index_memory.md) -/

/-- R100, R101, R102 (that FX1E keeps all 16 bits is D16, that it sets no flag D22): the three writers of `I` complete and
change only `I` and `pc`. -/
def Obligations.IndexRegisterWrites : Prop :=
  ∀ (nnn : Addr12) (x : Reg) (s : State),
    (∃ t, exec (.ldINnn nnn) s = .next t ∧ t.i.toNat = nnn.toNat ∧ t.pc = s.pc + 2 ∧ UnchangedExcept [.pc, .i] s t) ∧
    (∃ t, exec (.addIVx x) s = .next t ∧ t.i.toNat = (s.i.toNat + (s.getV x).toNat) % 65536 ∧ t.pc = s.pc + 2 ∧
      UnchangedExcept [.pc, .i] s t) ∧
    ∃ t, exec (.ldFVx x) s = .next t ∧ t.i.toNat = 5 * (s.getV x).toNat ∧ t.pc = s.pc + 2 ∧ UnchangedExcept [.pc, .i] s t

/-- R103, R106 (that `I` is unchanged is D22): FX33 completes when `I + 2` is in memory: hundreds, tens and ones at `I`,
`I + 1`, `I + 2`; every other byte reads as before. -/
def Obligations.DecimalDigitsAreStoredAtI : Prop :=
  ∀ (x : Reg) (s : State), s.i.toNat + 2 ≤ 0xFFF → ∃ t, exec (.ldBVx x) s = .next t ∧
    (t.mem.readByte s.i.toNat).toNat = (s.getV x).toNat / 100 ∧
    (t.mem.readByte (s.i.toNat + 1)).toNat = (s.getV x).toNat / 10 % 10 ∧
    (t.mem.readByte (s.i.toNat + 2)).toNat = (s.getV x).toNat % 10 ∧
    (∀ a, a < s.i.toNat ∨ s.i.toNat + 2 < a → t.mem.readByte a = s.mem.readByte a) ∧
    t.pc = s.pc + 2 ∧ UnchangedExcept [.pc, .mem] s t

/-- R104, R106 (that `I` is unchanged is D22): FX55 completes when `I + X` is in memory: `V[k]` at `I + k` for
`k = 0..X`; every other byte reads as before. -/
def Obligations.RegistersAreStoredAtI : Prop :=
  ∀ (x : Reg) (s : State), s.i.toNat + x.val ≤ 0xFFF → ∃ t, exec (.ldMiVx x) s = .next t ∧
    (∀ k : Reg, k ≤ x → t.mem.readByte (s.i.toNat + k.val) = s.getV k) ∧
    (∀ a, a < s.i.toNat ∨ s.i.toNat + x.val < a → t.mem.readByte a = s.mem.readByte a) ∧
    t.pc = s.pc + 2 ∧ UnchangedExcept [.pc, .mem] s t

/-- R105, R106 (that `I` is unchanged is D22): FX65 completes when `I + X` is in memory: `V[k]` is the byte at `I + k` for
`k = 0..X`; the registers above `X` and every byte of memory are unchanged. -/
def Obligations.RegistersAreLoadedFromI : Prop :=
  ∀ (x : Reg) (s : State), s.i.toNat + x.val ≤ 0xFFF → ∃ t, exec (.ldVxMi x) s = .next t ∧
    (∀ k : Reg, t.getV k = if k ≤ x then s.mem.readByte (s.i.toNat + k.val) else s.getV k) ∧
    t.pc = s.pc + 2 ∧ UnchangedExcept [.pc, .v] s t

/-- R36, R106, R140 (D6; the latch is D2): the four instructions that access memory at `I`, when a byte they would touch is
above 0xFFF, change nothing but FAULT: no partial store, load or draw. -/
def Obligations.AccessPastTheEndLatchesMemOutOfBounds : Prop :=
  ∀ (x y : Reg) (n : Fin 16) (s : State),
    (s.i.toNat + 2 > 0xFFF → exec (.ldBVx x) s = .next
      { s with fault := some { cause := .memOutOfBounds, opcode := encode (.ldBVx x), addr := s.pc } }) ∧
    (s.i.toNat + x.val > 0xFFF → exec (.ldMiVx x) s = .next
      { s with fault := some { cause := .memOutOfBounds, opcode := encode (.ldMiVx x), addr := s.pc } }) ∧
    (s.i.toNat + x.val > 0xFFF → exec (.ldVxMi x) s = .next
      { s with fault := some { cause := .memOutOfBounds, opcode := encode (.ldVxMi x), addr := s.pc } }) ∧
    (n.val > 0 → s.i.toNat + n.val - 1 > 0xFFF → exec (.drwVxVyN x y n) s = .next
      { s with fault := some { cause := .memOutOfBounds, opcode := encode (.drwVxVyN x y n), addr := s.pc } })

/-- R104, R105, R41: what FX55 stores, a later FX65 with the same `X` and `I` loads back, whatever the registers hold in
between. -/
def Obligations.StoreThenLoadGivesTheRegistersBack : Prop :=
  ∀ (x : Reg) (s t : State) (v : Vector Byte 16), s.i.toNat + x.val ≤ 0xFFF → exec (.ldMiVx x) s = .next t →
    ∃ u, exec (.ldVxMi x) { t with v := v } = .next u ∧ ∀ k : Reg, k ≤ x → u.getV k = s.getV k

/-- R40, R176: a store is seen by the very next fetch: after an FX55 whose `I` is the address of the next instruction, the
word fetched is `V0` and `V1`. -/
def Obligations.StoreIsSeenByTheNextFetch : Prop :=
  ∀ (x : Reg) (s t : State), x.val ≥ 1 → s.i = s.pc + 2 → s.i.toNat + x.val ≤ 0xFFF → exec (.ldMiVx x) s = .next t →
    t.fetchWord = some (wordOfBytes (s.getV 0) (s.getV 1))

/-- R41: a byte written is read back at its address, and every other address reads as before. -/
def Obligations.ReadAfterWrite : Prop :=
  ∀ (m : Memory) (a a' : Nat) (b : Byte), (m.writeByte a b).readByte a' = if a' = a then b else m.readByte a'

/-- Log 4, the model's own form of memory: memories in canonical form that read alike at every address of R30 are equal
data. -/
def Obligations.CanonicalMemoriesThatReadAlikeAreEqual : Prop :=
  ∀ m m' : Memory, m.wf → m'.wf → m.font = m'.font →
    (∀ a, a < 4096 → m.readByte a = m'.readByte a) → m = m'

/-! ## Display (spec/44_display.md) -/

/-- R110: CLS completes; every cell is false, and only the display and `pc` change. -/
def Obligations.ClearTurnsEveryCellOff : Prop :=
  ∀ s : State, ∃ t, exec .cls s = .next t ∧ (∀ p : Pixel, t.disp.lit p = false) ∧ t.pc = s.pc + 2 ∧
    UnchangedExcept [.pc, .disp] s t

/-- R111, R112: DRW completes when the sprite is in memory (always for `n = 0`): a cell is toggled exactly when a set bit
of the sprite falls on it, with the coordinates wrapped; VF is 1 when a lit cell was turned off and 0 otherwise; no other
register changes. -/
def Obligations.DrawXorsTheSpriteAndReportsCollision : Prop :=
  ∀ (x y : Reg) (n : Fin 16) (s : State), n.val = 0 ∨ s.i.toNat + n.val - 1 ≤ 0xFFF →
    ∃ t, exec (.drwVxVyN x y n) s = .next t ∧
      (∀ p : Pixel, SpriteCovers s (s.getV x) (s.getV y) n.val p → t.disp.lit p = !(s.disp.lit p)) ∧
      (∀ p : Pixel, ¬ SpriteCovers s (s.getV x) (s.getV y) n.val p → t.disp.lit p = s.disp.lit p) ∧
      ((∃ p, SpriteCovers s (s.getV x) (s.getV y) n.val p ∧ s.disp.lit p = true) → t.getV 15 = 1) ∧
      ((∀ p, SpriteCovers s (s.getV x) (s.getV y) n.val p → s.disp.lit p = false) → t.getV 15 = 0) ∧
      (∀ r, r ≠ 15 → t.getV r = s.getV r) ∧ t.pc = s.pc + 2 ∧ UnchangedExcept [.pc, .v, .disp] s t

/-- The source's collision property (S6, R111): drawing the same sprite twice at the same place restores the display, and
the second draw reports a collision whenever the sprite has a set bit and the screen was clear. -/
def Obligations.DrawingTwiceRestoresTheDisplay : Prop :=
  ∀ (x y : Reg) (n : Fin 16) (s t : State), x ≠ 15 → y ≠ 15 → n.val = 0 ∨ s.i.toNat + n.val - 1 ≤ 0xFFF →
    exec (.drwVxVyN x y n) s = .next t →
    ∃ u, exec (.drwVxVyN x y n) t = .next u ∧ u.disp = s.disp ∧
      ((∀ p : Pixel, s.disp.lit p = false) →
        t.getV 15 = 0 ∧ ((∃ p, SpriteCovers s (s.getV x) (s.getV y) n.val p) → u.getV 15 = 1))

/-! ## Keypad and timers (spec/45_keypad_timers.md, spec/60_exceptions.md) -/

/-- R120, R121, R70: SKP and SKNP of a key 0..15 complete and change only `pc`: `a + 4` when the key is (is not) pressed,
`a + 2` otherwise. -/
def Obligations.KeySkipsTestTheKeyVxNames : Prop :=
  ∀ (x : Reg) (k : Fin 16) (s : State), (s.getV x).toNat = k.val →
    (∃ t, exec (.skpVx x) s = .next t ∧ UnchangedExcept [.pc] s t ∧
      t.pc.toNat = (s.pc.toNat + if s.keys[k] = true then 4 else 2) % 65536) ∧
    ∃ t, exec (.sknpVx x) s = .next t ∧ UnchangedExcept [.pc] s t ∧
      t.pc.toNat = (s.pc.toNat + if s.keys[k] = true then 2 else 4) % 65536

/-- R120, R121, R140 (D7, conflict C1; the latch is D2): SKP and SKNP of a value above 15 change nothing but FAULT. -/
def Obligations.KeyAboveFifteenLatchesKeyIndexOutOfRange : Prop :=
  ∀ (x : Reg) (s : State), (s.getV x).toNat > 15 →
    exec (.skpVx x) s = .next
      { s with fault := some { cause := .keyIndexOutOfRange, opcode := encode (.skpVx x), addr := s.pc } } ∧
    exec (.sknpVx x) s = .next
      { s with fault := some { cause := .keyIndexOutOfRange, opcode := encode (.sknpVx x), addr := s.pc } }

/-- R122: FX0A with no key pressed changes nothing at all; with a key pressed it completes: `V[X]` is the least pressed
key and only `V[X]` and `pc` change. -/
def Obligations.KeyWaitRetriesUntilAKeyIsDown : Prop :=
  ∀ (x : Reg) (s : State),
    ((∀ k : Fin 16, s.keys[k] = false) → exec (.ldVxK x) s = .next s) ∧
    ∀ k : Fin 16, s.keys[k] = true → (∀ j : Fin 16, j < k → s.keys[j] = false) →
      ∃ t, exec (.ldVxK x) s = .next t ∧ (t.getV x).toNat = k.val ∧ (∀ r, r ≠ x → t.getV r = s.getV r) ∧
        t.pc = s.pc + 2 ∧ UnchangedExcept [.pc, .v] s t

/-- R123, R124, R125, R157: the three timer instructions complete: `V[X] <- DT`, `DT <- V[X]`, `ST <- V[X]`, and nothing
else but `pc`. GetSound is true exactly when `ST > 0`, so at once after an FX18 of a non-zero value and not after one of 0. -/
def Obligations.TimerMoves : Prop :=
  ∀ (x : Reg) (s : State),
    (∃ t, exec (.ldVxDt x) s = .next t ∧ (∀ r, t.getV r = if r = x then s.dt else s.getV r) ∧ t.pc = s.pc + 2 ∧
      UnchangedExcept [.pc, .v] s t) ∧
    (∃ t, exec (.ldDtVx x) s = .next t ∧ t.dt = s.getV x ∧ t.pc = s.pc + 2 ∧ UnchangedExcept [.pc, .dt] s t) ∧
    (∃ t, exec (.ldStVx x) s = .next t ∧ t.st = s.getV x ∧ (t.getSound = true ↔ s.getV x ≠ 0) ∧ t.pc = s.pc + 2 ∧
      UnchangedExcept [.pc, .st] s t) ∧
    (s.getSound = true ↔ s.st.toNat > 0)

/-- R153, R154: after `n` ticks of a Machine that is not halted both timers have counted down by `n`, stopping at 0, and
nothing else has changed. -/
def Obligations.TicksCountBothTimersDownToZero : Prop :=
  ∀ (n : Nat) (s : State), s.fault = none →
    ((s.after (List.replicate n .tickTimers)).dt.toNat = s.dt.toNat - n ∧
      (s.after (List.replicate n .tickTimers)).st.toNat = s.st.toNat - n) ∧
    UnchangedExcept [.dt, .st] s (s.after (List.replicate n .tickTimers))

/-- R155, R153 (D13): the tone-trigger is emitted by a tick that finds `ST = 1` in a Machine that is not halted, and by no
other operation. -/
def Obligations.ToneTriggerExactlyWhenStIsOne : Prop :=
  ∀ (op : Operation) (s : State), (op.apply s).2 = some .toneTrigger ↔ op = .tickTimers ∧ s.fault = none ∧ s.st = 1

/-- R158, R4, the `SetKey` row of R23: in a Machine that is not halted `SetKey(k, pressed)` stores the boolean in key `k`
and changes nothing else; and the next `Step` sees it: an SKP of `k` at `pc` then ends at `a + 4` exactly when `pressed`,
with the keys as set. -/
def Obligations.SetKeyIsSeenByTheNextStep : Prop :=
  ∀ (s : State) (k : Fin 16) (pressed : Bool), s.fault = none →
    (s.setKey k pressed).keys[k] = pressed ∧ (∀ j : Fin 16, j ≠ k → (s.setKey k pressed).keys[j] = s.keys[j]) ∧
    UnchangedExcept [.keys] s (s.setKey k pressed) ∧
    ∀ x : Reg, s.fetchInstr = .ok (.skpVx x) → (s.getV x).toNat = k.val →
      ∃ t, step (s.setKey k pressed) = .next t ∧ t.pc = s.pc + (if pressed then 4 else 2) ∧
        t.keys = (s.setKey k pressed).keys

/-! ## Reset and Load (spec/70_reset_and_hazards.md) -/

/-- R22, R170: after `Reset`, from any state at all: `pc = 0x200`, every register, timer, stack entry, key and cell is
zero or false, no fault is latched, and memory reads FONT at 0..79 and 0 up to 4095. FONT is the parameter of the Machine
(D10), which `Reset` keeps (log 7). The counter `draws` is the model's own and goes on (log 7). -/
def Obligations.ResetGivesTheListedState : Prop :=
  ∀ s t : State, t = (Operation.reset.apply s).1 →
    t.pc.toNat = 0x200 ∧ (∀ r, t.getV r = 0) ∧ t.i = 0 ∧ (∀ k : Fin 16, t.stack[k] = 0) ∧ t.sp = 0 ∧ t.dt = 0 ∧ t.st = 0 ∧
    (∀ k : Fin 16, t.keys[k] = false) ∧ (∀ p : Pixel, t.disp.lit p = false) ∧ t.fault = none ∧
    (∀ k : Fin 80, t.mem.readByte k.val = s.mem.font[k]) ∧ (∀ a, 80 ≤ a → a < 4096 → t.mem.readByte a = 0) ∧
    t.mem.font = s.mem.font ∧ t.draws = s.draws

/-- R171, R55, R144 (the zero and odd lengths are D14, the latch D2): `Load` of an image of at most 3584 bytes puts it at
0x200 and changes no other byte and nothing else; a longer image only latches LoadTooLarge. -/
def Obligations.LoadCopiesTheImageOrRejectsIt : Prop :=
  ∀ (s : State) (bytes : List Byte), s.fault = none →
    (bytes.length ≤ 3584 →
      (∀ k (h : k < bytes.length), (s.load bytes).mem.readByte (0x200 + k) = bytes[k]) ∧
      (∀ a, a < 0x200 ∨ 0x200 + bytes.length ≤ a → (s.load bytes).mem.readByte a = s.mem.readByte a) ∧
      UnchangedExcept [.mem] s (s.load bytes)) ∧
    (3584 < bytes.length →
      s.load bytes = { s with fault := some { cause := .loadTooLarge, opcode := 0, addr := 0 } })

/-! ## Invariants -/

/-- The invariant `Inv` (the ranges of R13, and canonical memory, log 4) holds after reset, whatever the FONT. -/
def Obligations.InvHoldsAfterReset : Prop :=
  Inv State.reset ∧ ∀ (font : Vector Byte 80) (draws : Nat), Inv (State.resetWith font draws)

/-- R13's range paragraph (the spec's own derivation) and log 4: every step from every state with `Inv` keeps `Inv`: `pc`
stays at most 0x10FE, pushed addresses at most 0x1000, memory canonical. -/
def Obligations.StepKeepsInv : Prop :=
  ∀ s t : State, Inv s → step s = .next t → Inv t

/-- The same for every operation of R3, so for every interleaving. -/
def Obligations.OperationsKeepInv : Prop :=
  ∀ (op : Operation) (s : State), Inv s → Inv (op.apply s).1

/-- R20, R140, R150 (D2 to D4): every operation keeps the latched record true of the frozen state: its address is the `pc`
kept and its opcode the word still fetched there (0 where none was). -/
def Obligations.OperationsKeepFaultRecordTrue : Prop :=
  ∀ (op : Operation) (s : State), FaultRecordTrue s → FaultRecordTrue (op.apply s).1

/-- R4, R172, R20, R140, R150: every state a Machine can be in, after any interleaving of operations from a reset, has
both `Inv` and `FaultRecordTrue`. -/
def Obligations.ReachableStatesAreGood : Prop :=
  ∀ s : State, Reachable s → Inv s ∧ FaultRecordTrue s

/-- R180 (D18), R63: in a finished state a `Step` changes nothing, so the program stays finished. -/
def Obligations.FinishedProgramStaysFinished : Prop :=
  ∀ s : State, Finished s → step s = .next s
end

