-- ==== Sys2Proof/Laws/Display.lean ====
section
/-! SUPPORT. Drawing (spec/44_display.md R111, R112): which cells a draw toggles, and what the collision flag says. -/

namespace Sys2Proof.Machine

theorem Display.lit_toggle (d : Display) (p q : Pixel) :
    Display.lit (Display.toggle d p) q = if q = p then !(Display.lit d p) else Display.lit d q := by
  obtain ⟨px, py⟩ := p
  obtain ⟨qx, qy⟩ := q
  simp only [Display.lit, Display.toggle, Pixel.mk.injEq]
  by_cases hy : qy = py
  · subst hy
    by_cases hx : qx = px
    · subst hx; simp
    · have : px.val ≠ qx.val := fun e => hx (Fin.ext e.symm)
      simp [hx, this]
  · have : py.val ≠ qy.val := fun e => hy (Fin.ext e.symm)
    simp [hy, this]

/-- Drawing distinct cells toggles exactly these. -/
theorem Display.lit_draw (d : Display) {ps : List Pixel} (h : ps.Nodup) (q : Pixel) :
    Display.lit (Display.draw d ps).1 q = if q ∈ ps then !(Display.lit d q) else Display.lit d q := by
  induction ps generalizing d with
  | nil => simp [Display.draw]
  | cons p rest ih =>
    obtain ⟨hp, hr⟩ := List.nodup_cons.mp h
    rw [Display.draw, ih _ hr, Display.lit_toggle]
    by_cases e : q = p
    · subst e; simp [hp]
    · simp [e]

/-- The collision of a draw of distinct cells: one of them was lit before. -/
theorem Display.draw_collision (d : Display) {ps : List Pixel} (h : ps.Nodup) :
    (Display.draw d ps).2 = true ↔ ∃ p ∈ ps, Display.lit d p = true := by
  induction ps generalizing d with
  | nil => simp [Display.draw]
  | cons p rest ih =>
    obtain ⟨hp, hr⟩ := List.nodup_cons.mp h
    have same : ∀ q ∈ rest, Display.lit (Display.toggle d p) q = Display.lit d q := fun q hq => by
      rw [Display.lit_toggle, if_neg]
      rintro rfl; exact hp hq
    simp only [Display.draw, Bool.or_eq_true, ih _ hr, List.exists_mem_cons_iff]
    refine or_congr Iff.rfl (exists_congr fun q => and_congr_right fun hq => by rw [same q hq])

theorem mem_spriteRow {vx vy : Byte} {r : Nat} {b : Byte} {p : Pixel} :
    p ∈ spriteRow vx vy r b ↔ ∃ k, k < 8 ∧ b.getLsbD (7 - k) = true ∧ spritePixel vx vy r k = p := by
  simp [spriteRow, and_assoc]

/-- The cells of a sprite: a row and a column offset with the bit set (R112). -/
theorem mem_spritePixels {vx vy : Byte} {r : Nat} {rows : List Byte} {p : Pixel} :
    p ∈ spritePixels vx vy r rows ↔
      ∃ j k, ∃ h : j < rows.length, k < 8 ∧ rows[j].getLsbD (7 - k) = true ∧ spritePixel vx vy (r + j) k = p := by
  induction rows generalizing r with
  | nil => simp [spritePixels]
  | cons b rest ih =>
    rw [spritePixels, List.mem_append, mem_spriteRow, ih]
    constructor
    · rintro (⟨k, hk, hb, rfl⟩ | ⟨j, k, hj, hk, hb, rfl⟩)
      · exact ⟨0, k, by simp, hk, by simpa using hb, by simp⟩
      · exact ⟨j + 1, k, by simpa using hj, hk, by simpa using hb, by rw [Nat.add_assoc, Nat.add_comm 1 j]⟩
    · rintro ⟨j, k, hj, hk, hb, rfl⟩
      cases j with
      | zero => exact .inl ⟨k, hk, by simpa using hb, by simp⟩
      | succ j =>
        exact .inr ⟨j, k, by simpa using hj, hk, by simpa using hb, by rw [Nat.add_assoc, Nat.add_comm 1 j]⟩

theorem spritePixel_inj {vx vy : Byte} {r r' k k' : Nat} (hr : r < 32) (hr' : r' < 32) (hk : k < 8) (hk' : k' < 8)
    (h : spritePixel vx vy r k = spritePixel vx vy r' k') : r = r' ∧ k = k' := by
  simp [spritePixel, Fin.ext_iff] at h
  omega

/-- "No cell is toggled twice in one DXYN" (R111): up to 32 rows the cells of a sprite are distinct. -/
theorem spritePixels_nodup (vx vy : Byte) {r : Nat} {rows : List Byte} (h : r + rows.length ≤ 32) :
    (spritePixels vx vy r rows).Nodup := by
  induction rows generalizing r with
  | nil => simp [spritePixels]
  | cons b rest ih =>
    have h : r + (rest.length + 1) ≤ 32 := by simpa using h
    rw [spritePixels, List.nodup_append]
    refine ⟨?_, ih (by omega), ?_⟩
    · refine List.Nodup.map_on ?_ (List.nodup_range.filter _)
      intro k hk k' hk' e
      simp at hk hk'
      exact (spritePixel_inj (by omega) (by omega) hk.1 hk'.1 e).2
    · intro p hp q hq e
      obtain ⟨k, hk, -, rfl⟩ := mem_spriteRow.mp hp
      obtain ⟨j, k', hj, hk', -, rfl⟩ := mem_spritePixels.mp hq
      have := (spritePixel_inj (by omega) (by omega) hk hk' e).1
      omega

end Sys2Proof.Machine
end

