-- ==== Sys2Proof/Laws/Encoding.lean ====
section
/-! SUPPORT. The fields of the words the encoder writes, one lemma per format and field (spec/30_encoding.md R46, R47),
and the bytes of a word (R33). -/

namespace Sys2Proof

/-! ## The value of an encoded word -/

theorem encodeA_toNat {c : Nat} (hc : c < 16) (nnn : Addr12) : (encodeA c nnn).toNat = c * 4096 + nnn.toNat := by
  simp [encodeA]; omega

theorem encodeXB_toNat {c : Nat} (hc : c < 16) (x : Reg) (nn : Byte) :
    (encodeXB c x nn).toNat = c * 4096 + x.val * 256 + nn.toNat := by
  simp [encodeXB]; omega

theorem encodeXYN_toNat {c n : Nat} (hc : c < 16) (hn : n < 16) (x y : Reg) :
    (encodeXYN c x y n).toNat = c * 4096 + x.val * 256 + y.val * 16 + n := by
  simp [encodeXYN]; omega

theorem encodeXS_toNat {c sub : Nat} (hc : c < 16) (hs : sub < 256) (x : Reg) :
    (encodeXS c x sub).toNat = c * 4096 + x.val * 256 + sub := by
  simp [encodeXS]; omega

/-! ## Format A -/

theorem class_encodeA {c : Nat} (hc : c < 16) (nnn : Addr12) : slice (encodeA c nnn) 15 12 = c := by
  simp [slice, encodeA_toNat hc]; omega

theorem fieldNNN_encodeA {c : Nat} (hc : c < 16) (nnn : Addr12) : fieldNNN (encodeA c nnn) = nnn := by
  apply BitVec.eq_of_toNat_eq
  simp [fieldNNN, slice, encodeA_toNat hc]; omega

/-! ## Format XB -/

theorem class_encodeXB {c : Nat} (hc : c < 16) (x : Reg) (nn : Byte) : slice (encodeXB c x nn) 15 12 = c := by
  simp [slice, encodeXB_toNat hc]; omega

theorem fieldX_encodeXB {c : Nat} (hc : c < 16) (x : Reg) (nn : Byte) : fieldX (encodeXB c x nn) = x := by
  apply Fin.ext
  simp [fieldX, slice, encodeXB_toNat hc]; omega

theorem fieldNN_encodeXB {c : Nat} (hc : c < 16) (x : Reg) (nn : Byte) : fieldNN (encodeXB c x nn) = nn := by
  apply BitVec.eq_of_toNat_eq
  simp [fieldNN, slice, encodeXB_toNat hc]; omega

/-! ## Formats XY and XYN -/

theorem class_encodeXYN {c n : Nat} (hc : c < 16) (hn : n < 16) (x y : Reg) :
    slice (encodeXYN c x y n) 15 12 = c := by
  simp [slice, encodeXYN_toNat hc hn]; omega

theorem fieldX_encodeXYN {c n : Nat} (hc : c < 16) (hn : n < 16) (x y : Reg) : fieldX (encodeXYN c x y n) = x := by
  apply Fin.ext
  simp [fieldX, slice, encodeXYN_toNat hc hn]; omega

theorem fieldY_encodeXYN {c n : Nat} (hc : c < 16) (hn : n < 16) (x y : Reg) : fieldY (encodeXYN c x y n) = y := by
  apply Fin.ext
  simp [fieldY, slice, encodeXYN_toNat hc hn]; omega

theorem low_encodeXYN {c n : Nat} (hc : c < 16) (hn : n < 16) (x y : Reg) : slice (encodeXYN c x y n) 3 0 = n := by
  simp [slice, encodeXYN_toNat hc hn]; omega

theorem fieldN_encodeXYN {c : Nat} (hc : c < 16) (x y : Reg) (n : Fin 16) : fieldN (encodeXYN c x y n.val) = n := by
  apply Fin.ext
  simp [fieldN, low_encodeXYN hc n.isLt]

/-! ## Format XS -/

theorem class_encodeXS {c sub : Nat} (hc : c < 16) (hs : sub < 256) (x : Reg) : slice (encodeXS c x sub) 15 12 = c := by
  simp [slice, encodeXS_toNat hc hs]; omega

theorem fieldX_encodeXS {c sub : Nat} (hc : c < 16) (hs : sub < 256) (x : Reg) : fieldX (encodeXS c x sub) = x := by
  apply Fin.ext
  simp [fieldX, slice, encodeXS_toNat hc hs]; omega

theorem low_encodeXS {c sub : Nat} (hc : c < 16) (hs : sub < 256) (x : Reg) : slice (encodeXS c x sub) 7 0 = sub := by
  simp [slice, encodeXS_toNat hc hs]; omega

/-! ## Bytes -/

@[simp] theorem wordOfBytes_toNat (hi lo : Byte) : (wordOfBytes hi lo).toNat = hi.toNat * 256 + lo.toNat := by
  simp [wordOfBytes]; omega

/-- The two bytes of a word give the word back (R33). -/
theorem bytesOfWord_spec (op : Word) : ∃ hi lo, bytesOfWord op = [hi, lo] ∧ wordOfBytes hi lo = op := by
  refine ⟨_, _, rfl, BitVec.eq_of_toNat_eq ?_⟩
  simp [slice]; omega

/-! ## The rows of the opcode table, in fields

The masks of R47 keep whole nibbles, so a row selects a word by its class and sub-opcode. -/

theorem slice_lt (op : Word) (hi lo : Nat) : slice op hi lo < 2 ^ (hi + 1 - lo) := Nat.mod_lt _ (by positivity)

theorem toNat_eq_nibbles (op : Word) :
    op.toNat = ((slice op 15 12 * 16 + slice op 11 8) * 16 + slice op 7 4) * 16 + slice op 3 0 := by
  simp [slice]; omega

theorem and_nibble (a c : Nat) {b d : Nat} (hb : b < 16) (hd : d < 16) :
    (a * 16 + b) &&& (c * 16 + d) = (a &&& c) * 16 + (b &&& d) := by
  have hbd : b &&& d < 2 ^ 4 := Nat.and_lt_two_pow _ hd
  rw [Nat.mul_comm a, Nat.mul_comm c, Nat.mul_comm (a &&& c)]
  apply Nat.eq_of_testBit_eq
  intro k
  rw [Nat.testBit_and, Nat.testBit_two_pow_mul_add (i := 4) a hb, Nat.testBit_two_pow_mul_add (i := 4) c hd,
    Nat.testBit_two_pow_mul_add (i := 4) _ hbd]
  split <;> simp

theorem and_nibbles (op : Word) (m3 : Nat) {m2 m1 m0 : Nat} (h2 : m2 < 16) (h1 : m1 < 16) (h0 : m0 < 16) :
    op.toNat &&& (((m3 * 16 + m2) * 16 + m1) * 16 + m0) =
      (((slice op 15 12 &&& m3) * 16 + (slice op 11 8 &&& m2)) * 16 + (slice op 7 4 &&& m1)) * 16 +
        (slice op 3 0 &&& m0) := by
  conv => lhs; rw [toNat_eq_nibbles op]
  rw [and_nibble _ _ (slice_lt op 3 0) h0, and_nibble _ _ (slice_lt op 7 4) h1, and_nibble _ _ (slice_lt op 11 8) h2]

theorem and_fifteen {n : Nat} (h : n < 16) : n &&& 15 = n := by
  rw [show (15 : Nat) = 2 ^ 4 - 1 by rfl, Nat.and_two_pow_sub_one_eq_mod]; omega

theorem selects_iff (r : OpcodeRow) (op : Word) : r.selects op = true ↔ op.toNat &&& r.mask.toNat = r.pat.toNat := by
  simp [OpcodeRow.selects, ← BitVec.toNat_inj]

/-- Format Z: the whole word. -/
theorem selects_Z (m : String) (pat op : Word) : (OpcodeRow.mk m pat 0xFFFF).selects op = true ↔ op = pat := by
  have h := and_nibbles op 15 (m2 := 15) (m1 := 15) (m0 := 15) (by decide) (by decide) (by decide)
  rw [and_fifteen (slice_lt op 15 12), and_fifteen (slice_lt op 11 8), and_fifteen (slice_lt op 7 4),
    and_fifteen (slice_lt op 3 0), ← toNat_eq_nibbles] at h
  rw [selects_iff, ← BitVec.toNat_inj]
  exact Eq.congr h rfl

/-- Formats A, XB, XYN: the class. -/
theorem selects_class (m : String) {pat op : Word} {c : Nat} (hp : pat.toNat = c * 4096) :
    (OpcodeRow.mk m pat 0xF000).selects op = true ↔ slice op 15 12 = c := by
  have h := and_nibbles op 15 (m2 := 0) (m1 := 0) (m0 := 0) (by decide) (by decide) (by decide)
  rw [and_fifteen (slice_lt op 15 12)] at h
  rw [selects_iff, hp]
  refine (Eq.congr h rfl).trans ?_
  simp only [Nat.and_zero]; omega

/-- Format XY: the class and the last nibble. -/
theorem selects_XY (m : String) {pat op : Word} {c n : Nat} (hn : n < 16) (hp : pat.toNat = c * 4096 + n) :
    (OpcodeRow.mk m pat 0xF00F).selects op = true ↔ slice op 15 12 = c ∧ slice op 3 0 = n := by
  have h := and_nibbles op 15 (m2 := 0) (m1 := 0) (m0 := 15) (by decide) (by decide) (by decide)
  have := slice_lt op 3 0
  rw [and_fifteen (slice_lt op 15 12), and_fifteen (slice_lt op 3 0)] at h
  rw [selects_iff, hp]
  refine (Eq.congr h rfl).trans ?_
  simp only [Nat.and_zero]; omega

/-- Format XS: the class and the low byte. -/
theorem selects_XS (m : String) {pat op : Word} {c sub : Nat} (hs : sub < 256) (hp : pat.toNat = c * 4096 + sub) :
    (OpcodeRow.mk m pat 0xF0FF).selects op = true ↔ slice op 15 12 = c ∧ slice op 7 0 = sub := by
  have h := and_nibbles op 15 (m2 := 0) (m1 := 15) (m0 := 15) (by decide) (by decide) (by decide)
  have h1 := slice_lt op 7 4
  have h0 := slice_lt op 3 0
  have low : slice op 7 0 = slice op 7 4 * 16 + slice op 3 0 := by simp [slice]; omega
  rw [and_fifteen (slice_lt op 15 12), and_fifteen h1, and_fifteen h0] at h
  rw [selects_iff, hp, low]
  refine (Eq.congr h rfl).trans ?_
  simp only [Nat.and_zero]; omega

end Sys2Proof
end

