-- ==== Sys2Proof/Laws/Memory.lean ====
section
/-! SUPPORT. Memory: read after write, the canonical form is kept by every operation, and canonical memories that read
alike are equal (spec/20_memory.md R34 to R41; log 4). -/

namespace Sys2Proof.Machine

/-! ## Cells -/

theorem cellsFind_of_not_listed {dflt : Byte} {a : Nat} {cs : List Host.Cell} (h : ∀ c ∈ cs, c.1 ≠ a) :
    cellsFind dflt cs a = dflt := by
  induction cs with
  | nil => rfl
  | cons c rest ih =>
    simp only [cellsFind, if_neg (h c (by simp))]
    exact ih fun d hd => h d (by simp [hd])

theorem cellsFind_filter_of_ne {dflt : Byte} {a a' : Nat} {cs : List Host.Cell} (h : a' ≠ a) :
    cellsFind dflt (cs.filter fun c => c.1 != a) a' = cellsFind dflt cs a' := by
  induction cs with
  | nil => rfl
  | cons c rest ih =>
    by_cases e : c.1 = a
    · simp [cellsFind, e, h.symm, ih]
    · simp [cellsFind, e, ih]

theorem cellsFind_cellsInsert_of_ne {dflt : Byte} {c : Host.Cell} {a' : Nat} {cs : List Host.Cell} (h : a' ≠ c.1) :
    cellsFind dflt (cellsInsert c cs) a' = cellsFind dflt cs a' := by
  induction cs with
  | nil => simp [cellsInsert, cellsFind, h.symm]
  | cons d rest ih =>
    simp only [cellsInsert]
    split <;> simp [cellsFind, h.symm, ih]

theorem cellsFind_cellsInsert_self {dflt : Byte} {c : Host.Cell} {cs : List Host.Cell} (h : ∀ d ∈ cs, d.1 ≠ c.1) :
    cellsFind dflt (cellsInsert c cs) c.1 = c.2 := by
  induction cs with
  | nil => simp [cellsInsert, cellsFind]
  | cons d rest ih =>
    simp only [cellsInsert]
    split
    · simp [cellsFind]
    · simp [cellsFind, h d (by simp), ih fun e he => h e (by simp [he])]

/-- Setting a byte changes what is found at its own address only. -/
theorem cellsFind_cellsPut_of_ne {dflt dflt' : Byte} {a a' : Nat} {b : Byte} {cs : List Host.Cell} (h : a' ≠ a) :
    cellsFind dflt (cellsPut dflt' cs a b) a' = cellsFind dflt cs a' := by
  unfold cellsPut
  split
  · exact cellsFind_filter_of_ne h
  · rw [cellsFind_cellsInsert_of_ne h, cellsFind_filter_of_ne h]

theorem cellsFind_cellsPut_self (dflt : Byte) (cs : List Host.Cell) (a : Nat) (b : Byte) :
    cellsFind dflt (cellsPut dflt cs a b) a = b := by
  have gone : ∀ c ∈ cs.filter fun c => c.1 != a, c.1 ≠ a := fun c hc => by simpa using (List.mem_filter.mp hc).2
  unfold cellsPut
  split
  · rename_i e; rw [cellsFind_of_not_listed gone, e]
  · exact cellsFind_cellsInsert_self gone

theorem mem_cellsInsert {c d : Host.Cell} {cs : List Host.Cell} : d ∈ cellsInsert c cs ↔ d = c ∨ d ∈ cs := by
  induction cs with
  | nil => simp [cellsInsert]
  | cons e rest ih =>
    simp only [cellsInsert]
    split
    · simp
    · simp only [List.mem_cons, ih]; tauto

theorem mem_cellsPut {dflt : Byte} {a : Nat} {b : Byte} {cs : List Host.Cell} {c : Host.Cell}
    (h : c ∈ cellsPut dflt cs a b) : c ∈ cs ∨ (c = (a, b) ∧ b ≠ dflt) := by
  unfold cellsPut at h
  split at h
  · exact .inl (List.mem_filter.mp h).1
  · rename_i e
    exact (mem_cellsInsert.mp h).elim (fun h => .inr ⟨h, e⟩) fun h => .inl (List.mem_filter.mp h).1

theorem cellsInsert_sorted {c : Host.Cell} {cs : List Host.Cell} (hs : cs.Pairwise fun c d => c.1 < d.1)
    (h : ∀ d ∈ cs, d.1 ≠ c.1) : (cellsInsert c cs).Pairwise fun c d => c.1 < d.1 := by
  induction cs with
  | nil => simp [cellsInsert]
  | cons d rest ih =>
    obtain ⟨hd, hrest⟩ := List.pairwise_cons.mp hs
    have hne := h d (by simp)
    simp only [cellsInsert]
    split
    · rename_i lt
      refine List.pairwise_cons.mpr ⟨fun e he => ?_, hs⟩
      rcases List.mem_cons.mp he with rfl | he
      · exact lt
      · have := hd e he; omega
    · refine List.pairwise_cons.mpr ⟨fun e he => ?_, ih hrest fun e he => h e (by simp [he])⟩
      rcases mem_cellsInsert.mp he with rfl | he
      · omega
      · exact hd e he

theorem cellsPut_sorted {dflt : Byte} {a : Nat} {b : Byte} {cs : List Host.Cell}
    (hs : cs.Pairwise fun c d => c.1 < d.1) : (cellsPut dflt cs a b).Pairwise fun c d => c.1 < d.1 := by
  unfold cellsPut
  split
  · exact hs.filter _
  · exact cellsInsert_sorted (hs.filter _) fun d hd => by simpa using (List.mem_filter.mp hd).2

/-- In canonical cells, a listed address reads as something an unlisted one does not. -/
theorem cellsFind_of_mem {dflt : Byte} {c : Host.Cell} {cs : List Host.Cell} (hs : cs.Pairwise fun c d => c.1 < d.1)
    (h : c ∈ cs) : cellsFind dflt cs c.1 = c.2 := by
  induction cs with
  | nil => simp at h
  | cons d rest ih =>
    obtain ⟨hd, hrest⟩ := List.pairwise_cons.mp hs
    rcases List.mem_cons.mp h with rfl | h
    · simp [cellsFind]
    · have : d.1 ≠ c.1 := by have := hd c h; omega
      simp [cellsFind, this, ih hrest h]

/-! ## Memory -/

@[simp] theorem Memory.writeByte_font (m : Memory) (a : Nat) (b : Byte) : (m.writeByte a b).font = m.font := rfl

@[simp] theorem Memory.writeByte_unlisted (m : Memory) (a a' : Nat) (b : Byte) :
    (m.writeByte a b).unlisted a' = m.unlisted a' := rfl

@[simp] theorem Memory.writeBytes_font (m : Memory) (base : Nat) (bytes : List Byte) :
    (m.writeBytes base bytes).font = m.font := by
  induction bytes generalizing m base with
  | nil => rfl
  | cons b rest ih => simp [Memory.writeBytes, ih]

@[simp] theorem Memory.readByte_writeByte_self (m : Memory) (a : Nat) (b : Byte) : (m.writeByte a b).readByte a = b :=
  cellsFind_cellsPut_self _ _ _ _

theorem Memory.readByte_writeByte_of_ne (m : Memory) {a a' : Nat} (b : Byte) (h : a' ≠ a) :
    (m.writeByte a b).readByte a' = m.readByte a' :=
  cellsFind_cellsPut_of_ne h

theorem Memory.wf_writeByte {m : Memory} (h : m.wf) {a : Nat} (ha : a < Config.memSize) (b : Byte) :
    (m.writeByte a b).wf := by
  refine ⟨cellsPut_sorted h.1, fun c hc => ?_⟩
  rcases mem_cellsPut hc with hc | ⟨rfl, hb⟩
  · exact h.2 c hc
  · exact ⟨ha, hb⟩

theorem Memory.wf_writeBytes {m : Memory} (h : m.wf) {base : Nat} {bytes : List Byte}
    (hb : bytes = [] ∨ base + bytes.length ≤ Config.memSize) : (m.writeBytes base bytes).wf := by
  induction bytes generalizing m base with
  | nil => exact h
  | cons b rest ih =>
    have hb : base + (rest.length + 1) ≤ Config.memSize := by simpa using hb
    exact ih (Memory.wf_writeByte h (by omega) b) (.inr (by omega))

theorem Memory.readByte_writeBytes_of_outside (m : Memory) {base a : Nat} {bytes : List Byte}
    (h : a < base ∨ base + bytes.length ≤ a) : (m.writeBytes base bytes).readByte a = m.readByte a := by
  induction bytes generalizing m base with
  | nil => rfl
  | cons b rest ih =>
    have h : a < base ∨ base + (rest.length + 1) ≤ a := by simpa using h
    rw [Memory.writeBytes, ih _ (by omega), Memory.readByte_writeByte_of_ne _ _ (by omega)]

theorem Memory.readByte_writeBytes (m : Memory) {base k : Nat} {bytes : List Byte} (h : k < bytes.length) :
    (m.writeBytes base bytes).readByte (base + k) = bytes[k] := by
  induction bytes generalizing m base k with
  | nil => simp at h
  | cons b rest ih =>
    cases k with
    | zero => simp [Memory.writeBytes, Memory.readByte_writeBytes_of_outside]
    | succ k =>
      have := ih (m.writeByte base b) (base := base + 1) (k := k) (by simpa using h)
      simpa [Memory.writeBytes, Nat.add_assoc, Nat.add_comm 1 k] using this

/-! ## Checked accesses (R36): everything a load or a store can do -/

theorem inBounds_iff (base n : Nat) : inBounds base n = true ↔ n = 0 ∨ base + n ≤ 4096 := by
  unfold inBounds
  rw [Bool.or_eq_true, beq_iff_eq, decide_eq_true_iff]
  exact Iff.rfl

theorem Memory.loadBytes_eq_some {m : Memory} {base n : Nat} (h : n = 0 ∨ base + n ≤ 4096) :
    m.loadBytes base n = some ((List.range n).map fun k => m.readByte (base + k)) :=
  if_pos ((inBounds_iff _ _).mpr h)

theorem Memory.loadBytes_eq_none {m : Memory} {base n : Nat} : m.loadBytes base n = none ↔ n ≠ 0 ∧ 4096 < base + n := by
  rw [← not_iff_not, not_and_or, not_not, not_lt, ← inBounds_iff]
  simp [Memory.loadBytes]

theorem Memory.storeBytes_eq_some {m : Memory} {base : Nat} {bytes : List Byte}
    (h : bytes.length = 0 ∨ base + bytes.length ≤ 4096) : m.storeBytes base bytes = some (m.writeBytes base bytes) :=
  if_pos ((inBounds_iff _ _).mpr h)

theorem Memory.storeBytes_eq_none {m : Memory} {base : Nat} {bytes : List Byte} :
    m.storeBytes base bytes = none ↔ bytes.length ≠ 0 ∧ 4096 < base + bytes.length := by
  rw [← not_iff_not, not_and_or, not_not, not_lt, ← inBounds_iff]
  simp [Memory.storeBytes]

/-- A store that is made: what it stores, what it leaves, and that the canonical form and FONT are kept. -/
theorem Memory.storeBytes_spec {m m' : Memory} {base : Nat} {bytes : List Byte}
    (h : m.storeBytes base bytes = some m') :
    (bytes.length = 0 ∨ base + bytes.length ≤ 4096) ∧ m'.font = m.font ∧ (m.wf → m'.wf) ∧
    (∀ k (hk : k < bytes.length), m'.readByte (base + k) = bytes[k]) ∧
    ∀ a, a < base ∨ base + bytes.length ≤ a → m'.readByte a = m.readByte a := by
  have hb : inBounds base bytes.length = true := by
    by_contra e; simp [Memory.storeBytes, e] at h
  obtain rfl : m.writeBytes base bytes = m' := by simpa [Memory.storeBytes, hb] using h
  rw [inBounds_iff] at hb
  refine ⟨hb, Memory.writeBytes_font .., fun hw => Memory.wf_writeBytes hw ?_, fun k hk => Memory.readByte_writeBytes m hk,
    fun a ha => Memory.readByte_writeBytes_of_outside m ha⟩
  exact hb.imp List.eq_nil_of_length_eq_zero id

/-- A load that is made gives the bytes at its addresses. -/
theorem Memory.loadBytes_spec {m : Memory} {base n : Nat} {bytes : List Byte} (h : m.loadBytes base n = some bytes) :
    (n = 0 ∨ base + n ≤ 4096) ∧ bytes.length = n ∧ ∀ k (hk : k < bytes.length), bytes[k] = m.readByte (base + k) := by
  have hb : inBounds base n = true := by
    by_contra e; simp [Memory.loadBytes, e] at h
  obtain rfl : (List.range n).map (fun k => m.readByte (base + k)) = bytes := by
    simpa [Memory.loadBytes, hb] using h
  exact ⟨(inBounds_iff _ _).mp hb, by simp, fun k hk => by simp⟩

/-- Memory with nothing listed is canonical, whatever the FONT. -/
theorem Memory.wf_empty (font : Vector Byte 80) : (Memory.mk font []).wf := by simp [Memory.wf]

end Sys2Proof.Machine
end

