-- ==== Sys2Proof/Laws/State.lean ====
section
/-! SUPPORT. One lemma per field per update of State (each true by rfl, or by cases on a flag), so that later proofs never
unfold a record update. -/

namespace Sys2Proof.Machine

/-! ## setV -/

@[simp] theorem State.setV_v (s : State) (x : Reg) (b : Byte) : (s.setV x b).v = s.v.set x b := rfl
@[simp] theorem State.setV_pc (s : State) (x : Reg) (b : Byte) : (s.setV x b).pc = s.pc := rfl
@[simp] theorem State.setV_i (s : State) (x : Reg) (b : Byte) : (s.setV x b).i = s.i := rfl
@[simp] theorem State.setV_stack (s : State) (x : Reg) (b : Byte) : (s.setV x b).stack = s.stack := rfl
@[simp] theorem State.setV_sp (s : State) (x : Reg) (b : Byte) : (s.setV x b).sp = s.sp := rfl
@[simp] theorem State.setV_dt (s : State) (x : Reg) (b : Byte) : (s.setV x b).dt = s.dt := rfl
@[simp] theorem State.setV_st (s : State) (x : Reg) (b : Byte) : (s.setV x b).st = s.st := rfl
@[simp] theorem State.setV_keys (s : State) (x : Reg) (b : Byte) : (s.setV x b).keys = s.keys := rfl
@[simp] theorem State.setV_disp (s : State) (x : Reg) (b : Byte) : (s.setV x b).disp = s.disp := rfl
@[simp] theorem State.setV_mem (s : State) (x : Reg) (b : Byte) : (s.setV x b).mem = s.mem := rfl
@[simp] theorem State.setV_fault (s : State) (x : Reg) (b : Byte) : (s.setV x b).fault = s.fault := rfl
@[simp] theorem State.setV_draws (s : State) (x : Reg) (b : Byte) : (s.setV x b).draws = s.draws := rfl

/-! ## setVThenFlag -/

@[simp] theorem State.setVThenFlag_v (s : State) (x : Reg) (b c : Byte) : (s.setVThenFlag x b c).v = (s.v.set x b).set 15 c := rfl
@[simp] theorem State.setVThenFlag_pc (s : State) (x : Reg) (b c : Byte) : (s.setVThenFlag x b c).pc = s.pc := rfl
@[simp] theorem State.setVThenFlag_i (s : State) (x : Reg) (b c : Byte) : (s.setVThenFlag x b c).i = s.i := rfl
@[simp] theorem State.setVThenFlag_stack (s : State) (x : Reg) (b c : Byte) : (s.setVThenFlag x b c).stack = s.stack := rfl
@[simp] theorem State.setVThenFlag_sp (s : State) (x : Reg) (b c : Byte) : (s.setVThenFlag x b c).sp = s.sp := rfl
@[simp] theorem State.setVThenFlag_dt (s : State) (x : Reg) (b c : Byte) : (s.setVThenFlag x b c).dt = s.dt := rfl
@[simp] theorem State.setVThenFlag_st (s : State) (x : Reg) (b c : Byte) : (s.setVThenFlag x b c).st = s.st := rfl
@[simp] theorem State.setVThenFlag_keys (s : State) (x : Reg) (b c : Byte) : (s.setVThenFlag x b c).keys = s.keys := rfl
@[simp] theorem State.setVThenFlag_disp (s : State) (x : Reg) (b c : Byte) : (s.setVThenFlag x b c).disp = s.disp := rfl
@[simp] theorem State.setVThenFlag_mem (s : State) (x : Reg) (b c : Byte) : (s.setVThenFlag x b c).mem = s.mem := rfl
@[simp] theorem State.setVThenFlag_fault (s : State) (x : Reg) (b c : Byte) : (s.setVThenFlag x b c).fault = s.fault := rfl
@[simp] theorem State.setVThenFlag_draws (s : State) (x : Reg) (b c : Byte) : (s.setVThenFlag x b c).draws = s.draws := rfl

/-! ## advance -/

@[simp] theorem State.advance_v (s : State) : (s.advance).v = s.v := rfl
@[simp] theorem State.advance_pc (s : State) : (s.advance).pc = s.pc + 2 := rfl
@[simp] theorem State.advance_i (s : State) : (s.advance).i = s.i := rfl
@[simp] theorem State.advance_stack (s : State) : (s.advance).stack = s.stack := rfl
@[simp] theorem State.advance_sp (s : State) : (s.advance).sp = s.sp := rfl
@[simp] theorem State.advance_dt (s : State) : (s.advance).dt = s.dt := rfl
@[simp] theorem State.advance_st (s : State) : (s.advance).st = s.st := rfl
@[simp] theorem State.advance_keys (s : State) : (s.advance).keys = s.keys := rfl
@[simp] theorem State.advance_disp (s : State) : (s.advance).disp = s.disp := rfl
@[simp] theorem State.advance_mem (s : State) : (s.advance).mem = s.mem := rfl
@[simp] theorem State.advance_fault (s : State) : (s.advance).fault = s.fault := rfl
@[simp] theorem State.advance_draws (s : State) : (s.advance).draws = s.draws := rfl

/-! ## skipIf -/

@[simp] theorem State.skipIf_v (s : State) (b : Bool) : (s.skipIf b).v = s.v := by cases b <;> rfl
@[simp] theorem State.skipIf_pc (s : State) (b : Bool) : (s.skipIf b).pc = if b then s.pc + 2 else s.pc := by cases b <;> rfl
@[simp] theorem State.skipIf_i (s : State) (b : Bool) : (s.skipIf b).i = s.i := by cases b <;> rfl
@[simp] theorem State.skipIf_stack (s : State) (b : Bool) : (s.skipIf b).stack = s.stack := by cases b <;> rfl
@[simp] theorem State.skipIf_sp (s : State) (b : Bool) : (s.skipIf b).sp = s.sp := by cases b <;> rfl
@[simp] theorem State.skipIf_dt (s : State) (b : Bool) : (s.skipIf b).dt = s.dt := by cases b <;> rfl
@[simp] theorem State.skipIf_st (s : State) (b : Bool) : (s.skipIf b).st = s.st := by cases b <;> rfl
@[simp] theorem State.skipIf_keys (s : State) (b : Bool) : (s.skipIf b).keys = s.keys := by cases b <;> rfl
@[simp] theorem State.skipIf_disp (s : State) (b : Bool) : (s.skipIf b).disp = s.disp := by cases b <;> rfl
@[simp] theorem State.skipIf_mem (s : State) (b : Bool) : (s.skipIf b).mem = s.mem := by cases b <;> rfl
@[simp] theorem State.skipIf_fault (s : State) (b : Bool) : (s.skipIf b).fault = s.fault := by cases b <;> rfl
@[simp] theorem State.skipIf_draws (s : State) (b : Bool) : (s.skipIf b).draws = s.draws := by cases b <;> rfl

/-! ## raise -/

@[simp] theorem State.raise_v (s : State) (r : FaultRecord) : (s.raise r).v = s.v := rfl
@[simp] theorem State.raise_pc (s : State) (r : FaultRecord) : (s.raise r).pc = s.pc := rfl
@[simp] theorem State.raise_i (s : State) (r : FaultRecord) : (s.raise r).i = s.i := rfl
@[simp] theorem State.raise_stack (s : State) (r : FaultRecord) : (s.raise r).stack = s.stack := rfl
@[simp] theorem State.raise_sp (s : State) (r : FaultRecord) : (s.raise r).sp = s.sp := rfl
@[simp] theorem State.raise_dt (s : State) (r : FaultRecord) : (s.raise r).dt = s.dt := rfl
@[simp] theorem State.raise_st (s : State) (r : FaultRecord) : (s.raise r).st = s.st := rfl
@[simp] theorem State.raise_keys (s : State) (r : FaultRecord) : (s.raise r).keys = s.keys := rfl
@[simp] theorem State.raise_disp (s : State) (r : FaultRecord) : (s.raise r).disp = s.disp := rfl
@[simp] theorem State.raise_mem (s : State) (r : FaultRecord) : (s.raise r).mem = s.mem := rfl
@[simp] theorem State.raise_fault (s : State) (r : FaultRecord) : (s.raise r).fault = some r := rfl
@[simp] theorem State.raise_draws (s : State) (r : FaultRecord) : (s.raise r).draws = s.draws := rfl

/-! ## raiseBy -/

@[simp] theorem State.raiseBy_v (s : State) (c : FaultCause) (i : Instr) : (s.raiseBy c i).v = s.v := rfl
@[simp] theorem State.raiseBy_pc (s : State) (c : FaultCause) (i : Instr) : (s.raiseBy c i).pc = s.pc := rfl
@[simp] theorem State.raiseBy_i (s : State) (c : FaultCause) (i : Instr) : (s.raiseBy c i).i = s.i := rfl
@[simp] theorem State.raiseBy_stack (s : State) (c : FaultCause) (i : Instr) : (s.raiseBy c i).stack = s.stack := rfl
@[simp] theorem State.raiseBy_sp (s : State) (c : FaultCause) (i : Instr) : (s.raiseBy c i).sp = s.sp := rfl
@[simp] theorem State.raiseBy_dt (s : State) (c : FaultCause) (i : Instr) : (s.raiseBy c i).dt = s.dt := rfl
@[simp] theorem State.raiseBy_st (s : State) (c : FaultCause) (i : Instr) : (s.raiseBy c i).st = s.st := rfl
@[simp] theorem State.raiseBy_keys (s : State) (c : FaultCause) (i : Instr) : (s.raiseBy c i).keys = s.keys := rfl
@[simp] theorem State.raiseBy_disp (s : State) (c : FaultCause) (i : Instr) : (s.raiseBy c i).disp = s.disp := rfl
@[simp] theorem State.raiseBy_mem (s : State) (c : FaultCause) (i : Instr) : (s.raiseBy c i).mem = s.mem := rfl
@[simp] theorem State.raiseBy_fault (s : State) (c : FaultCause) (i : Instr) : (s.raiseBy c i).fault = some ⟨c, encode i, s.pc⟩ := rfl
@[simp] theorem State.raiseBy_draws (s : State) (c : FaultCause) (i : Instr) : (s.raiseBy c i).draws = s.draws := rfl

/-! ## loadRegs -/

@[simp] theorem State.loadRegs_v (s : State) (bytes : List Byte) : (s.loadRegs bytes).v = Vector.ofFn fun r => bytes.getD r.val s.v[r] := rfl
@[simp] theorem State.loadRegs_pc (s : State) (bytes : List Byte) : (s.loadRegs bytes).pc = s.pc := rfl
@[simp] theorem State.loadRegs_i (s : State) (bytes : List Byte) : (s.loadRegs bytes).i = s.i := rfl
@[simp] theorem State.loadRegs_stack (s : State) (bytes : List Byte) : (s.loadRegs bytes).stack = s.stack := rfl
@[simp] theorem State.loadRegs_sp (s : State) (bytes : List Byte) : (s.loadRegs bytes).sp = s.sp := rfl
@[simp] theorem State.loadRegs_dt (s : State) (bytes : List Byte) : (s.loadRegs bytes).dt = s.dt := rfl
@[simp] theorem State.loadRegs_st (s : State) (bytes : List Byte) : (s.loadRegs bytes).st = s.st := rfl
@[simp] theorem State.loadRegs_keys (s : State) (bytes : List Byte) : (s.loadRegs bytes).keys = s.keys := rfl
@[simp] theorem State.loadRegs_disp (s : State) (bytes : List Byte) : (s.loadRegs bytes).disp = s.disp := rfl
@[simp] theorem State.loadRegs_mem (s : State) (bytes : List Byte) : (s.loadRegs bytes).mem = s.mem := rfl
@[simp] theorem State.loadRegs_fault (s : State) (bytes : List Byte) : (s.loadRegs bytes).fault = s.fault := rfl
@[simp] theorem State.loadRegs_draws (s : State) (bytes : List Byte) : (s.loadRegs bytes).draws = s.draws := rfl

/-! ## Reading a register after an update -/

theorem State.getV_setV (s : State) (x r : Reg) (b : Byte) : (s.setV x b).getV r = if r = x then b else s.getV r := by
  simp only [State.getV, State.setV_v]
  by_cases h : r = x
  · subst h; simp
  · have : x.val ≠ r.val := fun e => h (Fin.ext e.symm)
    simp [h, this]

@[simp] theorem State.getV_setV_self (s : State) (x : Reg) (b : Byte) : (s.setV x b).getV x = b := by
  simp [State.getV_setV]

theorem State.getV_setV_of_ne (s : State) {x r : Reg} (b : Byte) (h : r ≠ x) : (s.setV x b).getV r = s.getV r := by
  simp [State.getV_setV, h]

/-- The result first and VF last (R8): VF holds the flag, `x` the result unless it is VF. -/
theorem State.getV_setVThenFlag (s : State) (x r : Reg) (b c : Byte) :
    (s.setVThenFlag x b c).getV r = if r = 15 then c else if r = x then b else s.getV r := by
  simp [State.setVThenFlag, State.getV_setV]

@[simp] theorem State.getV_advance (s : State) (r : Reg) : s.advance.getV r = s.getV r := rfl

@[simp] theorem State.getV_skipIf (s : State) (b : Bool) (r : Reg) : (s.skipIf b).getV r = s.getV r := by
  cases b <;> rfl

/-- Registers after FX65's load (R105): the bytes given, then the old registers. -/
theorem State.getV_loadRegs (s : State) (bytes : List Byte) (r : Reg) :
    (s.loadRegs bytes).getV r = bytes.getD r.val (s.getV r) := by
  simp [State.getV]

end Sys2Proof.Machine
end

