-- ==== Sys2Proof/Laws/Ops.lean ====
section
/-! SUPPORT. For each shared operation, once, everything it can do. -/

namespace Sys2Proof.Machine

/-! ## The latch (R150) -/

theorem State.halted_eq_false {s : State} : s.halted = false ↔ s.fault = none := by simp [State.halted]

theorem State.halted_eq_true {s : State} : s.halted = true ↔ s.fault ≠ none := by
  cases h : s.fault <;> simp [State.halted, h]

/-! ## The stack (R15) -/

theorem State.push_eq_some {s : State} (h : s.sp.val < 16) (ret : Word) :
    s.push ret = some { s with stack := s.stack.set s.sp.val ret, sp := ⟨s.sp.val + 1, by omega⟩ } := by
  simp [State.push, h]

theorem State.push_eq_none {s : State} {ret : Word} : s.push ret = none ↔ s.sp.val = 16 := by
  have := s.sp.isLt
  simp only [State.push]
  split <;> simp <;> omega

theorem State.popPc_eq_some {s : State} (k : Fin 16) (h : s.sp.val = k.val + 1) :
    s.popPc = some { s with pc := s.stack[k], sp := ⟨k.val, by omega⟩ } := by
  simp [State.popPc, h]

theorem State.popPc_eq_none {s : State} : s.popPc = none ↔ s.sp.val = 0 := by
  simp only [State.popPc]
  split <;> simp <;> omega

/-! ## Fetch (R33, R60) -/

/-- A fetch inside memory gives the two bytes at `pc`, high byte first. -/
theorem State.fetchWord_eq_some {s : State} (h : s.pc.toNat ≤ 0xFFE) :
    s.fetchWord = some (wordOfBytes (s.mem.readByte s.pc.toNat) (s.mem.readByte (s.pc.toNat + 1))) := by
  rw [State.fetchWord, Memory.loadBytes_eq_some (by omega)]
  rfl

/-- A fetch past 0xFFE gives nothing. -/
theorem State.fetchWord_eq_none {s : State} (h : s.pc.toNat > 0xFFE) : s.fetchWord = none := by
  rw [State.fetchWord, Memory.loadBytes_eq_none.mpr (by omega)]

/-- What fetch and decode can do: no word, a defined word, or an undefined one. -/
theorem State.fetchInstr_cases (s : State) :
    (s.fetchWord = none ∧ s.fetchInstr = .error ⟨.fetchOutOfBounds, 0, s.pc⟩) ∨
    (∃ op i, s.fetchWord = some op ∧ decode op = .ok i ∧ s.fetchInstr = .ok i) ∨
    ∃ op r, s.fetchWord = some op ∧ decode op = .error r ∧ s.fetchInstr = .error ⟨.decodeError, op, s.pc⟩ := by
  cases hw : s.fetchWord with
  | none => exact .inl ⟨rfl, by simp [State.fetchInstr, hw]⟩
  | some op =>
    cases hd : decode op with
    | ok i => exact .inr (.inl ⟨op, i, rfl, hd, by simp [State.fetchInstr, hw, hd]⟩)
    | error r => exact .inr (.inr ⟨op, r, rfl, hd, by simp [State.fetchInstr, hw, hd]⟩)

/-! ## Flags (R12, R80) -/

theorem flagByte_toNat (b : Bool) : (flagByte b).toNat = if b = true then 1 else 0 := by cases b <;> rfl

theorem flagByte_cases (b : Bool) : flagByte b = 0 ∨ flagByte b = 1 := by cases b <;> simp [flagByte]

/-! ## Operand forms -/

theorem decimalDigits_length (v : Byte) : (decimalDigits v).length = 3 := rfl

theorem State.regsUpTo_length (s : State) (x : Reg) : (s.regsUpTo x).length = x.val + 1 := by
  simp [State.regsUpTo]

theorem State.regsUpTo_get (s : State) (x k : Reg) (h : k.val < (s.regsUpTo x).length) :
    (s.regsUpTo x)[k.val] = s.getV k := by
  simp [State.regsUpTo, State.getV]

theorem keyIndex_eq_some {b : Byte} {k : Fin 16} : keyIndex b = some k ↔ b.toNat = k.val := by
  simp only [keyIndex]
  split
  · simp [Fin.ext_iff]
  · simp; omega

theorem keyIndex_eq_none {b : Byte} : keyIndex b = none ↔ b.toNat > 15 := by
  simp only [keyIndex]
  split <;> simp <;> omega

theorem State.firstKey_eq_none {s : State} : s.firstKey = none ↔ ∀ k : Fin 16, s.keys[k] = false := by
  simp [State.firstKey, List.find?_eq_none]

/-- The key FX0A takes is pressed, and none below it is (R122). -/
theorem State.firstKey_eq_some {s : State} {k : Fin 16} :
    s.firstKey = some k ↔ s.keys[k] = true ∧ ∀ j : Fin 16, j < k → s.keys[j] = false := by
  rw [State.firstKey, List.find?_eq_some_iff_getElem]
  refine and_congr_right fun _ => ⟨?_, fun h => ⟨k.val, by simp, by simp, fun j hj => ?_⟩⟩
  · rintro ⟨i, hi, rfl, h⟩ j hj
    simpa using h j.val (by simpa [Fin.lt_def] using hj)
  · simpa using h ⟨j, by omega⟩ hj

end Sys2Proof.Machine
end

