-- ==== Sys2Proof/Laws/PerInstr.lean ====
section
/-! SUPPORT. Statements made of every instruction, one lemma per constructor. MatchesRow: the word of an instruction is
selected by the row of R49 with the instruction's mnemonic (spec/30_encoding.md R48). -/

namespace Sys2Proof.Laws

/-- The word of `i` is selected by the row of its mnemonic. -/
def MatchesRow.Statement (i : Instr) : Prop :=
  ∃ r ∈ opcodeTable, r.mnemonic = i.mnemonic ∧ r.selects (encode i) = true

theorem MatchesRow.nop : MatchesRow.Statement .nop :=
  ⟨⟨"NOP", 0x0000, 0xFFFF⟩, by decide, rfl, (selects_Z _ _ _).mpr rfl⟩

theorem MatchesRow.cls : MatchesRow.Statement .cls :=
  ⟨⟨"CLS", 0x00E0, 0xFFFF⟩, by decide, rfl, (selects_Z _ _ _).mpr rfl⟩

theorem MatchesRow.ret : MatchesRow.Statement .ret :=
  ⟨⟨"RET", 0x00EE, 0xFFFF⟩, by decide, rfl, (selects_Z _ _ _).mpr rfl⟩

theorem MatchesRow.jpNnn (nnn : Addr12) : MatchesRow.Statement (.jpNnn nnn) :=
  ⟨⟨"JP_NNN", 0x1000, 0xF000⟩, by decide, rfl, (selects_class _ (c := 1) rfl).mpr (class_encodeA (by decide) _)⟩

theorem MatchesRow.callNnn (nnn : Addr12) : MatchesRow.Statement (.callNnn nnn) :=
  ⟨⟨"CALL_NNN", 0x2000, 0xF000⟩, by decide, rfl, (selects_class _ (c := 2) rfl).mpr (class_encodeA (by decide) _)⟩

theorem MatchesRow.seVxNn (x : Reg) (nn : Byte) : MatchesRow.Statement (.seVxNn x nn) :=
  ⟨⟨"SE_VX_NN", 0x3000, 0xF000⟩, by decide, rfl, (selects_class _ (c := 3) rfl).mpr (class_encodeXB (by decide) _ _)⟩

theorem MatchesRow.sneVxNn (x : Reg) (nn : Byte) : MatchesRow.Statement (.sneVxNn x nn) :=
  ⟨⟨"SNE_VX_NN", 0x4000, 0xF000⟩, by decide, rfl, (selects_class _ (c := 4) rfl).mpr (class_encodeXB (by decide) _ _)⟩

theorem MatchesRow.seVxVy (x y : Reg) : MatchesRow.Statement (.seVxVy x y) :=
  ⟨⟨"SE_VX_VY", 0x5000, 0xF00F⟩, by decide, rfl, (selects_XY _ (c := 5) (n := 0) (by decide) rfl).mpr
      ⟨class_encodeXYN (by decide) (by decide) _ _, low_encodeXYN (by decide) (by decide) _ _⟩⟩

theorem MatchesRow.ldVxNn (x : Reg) (nn : Byte) : MatchesRow.Statement (.ldVxNn x nn) :=
  ⟨⟨"LD_VX_NN", 0x6000, 0xF000⟩, by decide, rfl, (selects_class _ (c := 6) rfl).mpr (class_encodeXB (by decide) _ _)⟩

theorem MatchesRow.addVxNn (x : Reg) (nn : Byte) : MatchesRow.Statement (.addVxNn x nn) :=
  ⟨⟨"ADD_VX_NN", 0x7000, 0xF000⟩, by decide, rfl, (selects_class _ (c := 7) rfl).mpr (class_encodeXB (by decide) _ _)⟩

theorem MatchesRow.ldVxVy (x y : Reg) : MatchesRow.Statement (.ldVxVy x y) :=
  ⟨⟨"LD_VX_VY", 0x8000, 0xF00F⟩, by decide, rfl, (selects_XY _ (c := 8) (n := 0) (by decide) rfl).mpr
      ⟨class_encodeXYN (by decide) (by decide) _ _, low_encodeXYN (by decide) (by decide) _ _⟩⟩

theorem MatchesRow.orVxVy (x y : Reg) : MatchesRow.Statement (.orVxVy x y) :=
  ⟨⟨"OR_VX_VY", 0x8001, 0xF00F⟩, by decide, rfl, (selects_XY _ (c := 8) (n := 1) (by decide) rfl).mpr
      ⟨class_encodeXYN (by decide) (by decide) _ _, low_encodeXYN (by decide) (by decide) _ _⟩⟩

theorem MatchesRow.andVxVy (x y : Reg) : MatchesRow.Statement (.andVxVy x y) :=
  ⟨⟨"AND_VX_VY", 0x8002, 0xF00F⟩, by decide, rfl, (selects_XY _ (c := 8) (n := 2) (by decide) rfl).mpr
      ⟨class_encodeXYN (by decide) (by decide) _ _, low_encodeXYN (by decide) (by decide) _ _⟩⟩

theorem MatchesRow.xorVxVy (x y : Reg) : MatchesRow.Statement (.xorVxVy x y) :=
  ⟨⟨"XOR_VX_VY", 0x8003, 0xF00F⟩, by decide, rfl, (selects_XY _ (c := 8) (n := 3) (by decide) rfl).mpr
      ⟨class_encodeXYN (by decide) (by decide) _ _, low_encodeXYN (by decide) (by decide) _ _⟩⟩

theorem MatchesRow.addVxVy (x y : Reg) : MatchesRow.Statement (.addVxVy x y) :=
  ⟨⟨"ADD_VX_VY", 0x8004, 0xF00F⟩, by decide, rfl, (selects_XY _ (c := 8) (n := 4) (by decide) rfl).mpr
      ⟨class_encodeXYN (by decide) (by decide) _ _, low_encodeXYN (by decide) (by decide) _ _⟩⟩

theorem MatchesRow.subVxVy (x y : Reg) : MatchesRow.Statement (.subVxVy x y) :=
  ⟨⟨"SUB_VX_VY", 0x8005, 0xF00F⟩, by decide, rfl, (selects_XY _ (c := 8) (n := 5) (by decide) rfl).mpr
      ⟨class_encodeXYN (by decide) (by decide) _ _, low_encodeXYN (by decide) (by decide) _ _⟩⟩

theorem MatchesRow.shrVx (x y : Reg) : MatchesRow.Statement (.shrVx x y) :=
  ⟨⟨"SHR_VX", 0x8006, 0xF00F⟩, by decide, rfl, (selects_XY _ (c := 8) (n := 6) (by decide) rfl).mpr
      ⟨class_encodeXYN (by decide) (by decide) _ _, low_encodeXYN (by decide) (by decide) _ _⟩⟩

theorem MatchesRow.subnVxVy (x y : Reg) : MatchesRow.Statement (.subnVxVy x y) :=
  ⟨⟨"SUBN_VX_VY", 0x8007, 0xF00F⟩, by decide, rfl, (selects_XY _ (c := 8) (n := 7) (by decide) rfl).mpr
      ⟨class_encodeXYN (by decide) (by decide) _ _, low_encodeXYN (by decide) (by decide) _ _⟩⟩

theorem MatchesRow.shlVx (x y : Reg) : MatchesRow.Statement (.shlVx x y) :=
  ⟨⟨"SHL_VX", 0x800E, 0xF00F⟩, by decide, rfl, (selects_XY _ (c := 8) (n := 14) (by decide) rfl).mpr
      ⟨class_encodeXYN (by decide) (by decide) _ _, low_encodeXYN (by decide) (by decide) _ _⟩⟩

theorem MatchesRow.sneVxVy (x y : Reg) : MatchesRow.Statement (.sneVxVy x y) :=
  ⟨⟨"SNE_VX_VY", 0x9000, 0xF00F⟩, by decide, rfl, (selects_XY _ (c := 9) (n := 0) (by decide) rfl).mpr
      ⟨class_encodeXYN (by decide) (by decide) _ _, low_encodeXYN (by decide) (by decide) _ _⟩⟩

theorem MatchesRow.ldINnn (nnn : Addr12) : MatchesRow.Statement (.ldINnn nnn) :=
  ⟨⟨"LD_I_NNN", 0xA000, 0xF000⟩, by decide, rfl, (selects_class _ (c := 10) rfl).mpr (class_encodeA (by decide) _)⟩

theorem MatchesRow.jpV0Nnn (nnn : Addr12) : MatchesRow.Statement (.jpV0Nnn nnn) :=
  ⟨⟨"JP_V0_NNN", 0xB000, 0xF000⟩, by decide, rfl, (selects_class _ (c := 11) rfl).mpr (class_encodeA (by decide) _)⟩

theorem MatchesRow.rndVxNn (x : Reg) (nn : Byte) : MatchesRow.Statement (.rndVxNn x nn) :=
  ⟨⟨"RND_VX_NN", 0xC000, 0xF000⟩, by decide, rfl, (selects_class _ (c := 12) rfl).mpr (class_encodeXB (by decide) _ _)⟩

theorem MatchesRow.drwVxVyN (x y : Reg) (n : Fin 16) : MatchesRow.Statement (.drwVxVyN x y n) :=
  ⟨⟨"DRW_VX_VY_N", 0xD000, 0xF000⟩, by decide, rfl, (selects_class _ (c := 13) rfl).mpr (class_encodeXYN (by decide) (Fin.isLt _) _ _)⟩

theorem MatchesRow.skpVx (x : Reg) : MatchesRow.Statement (.skpVx x) :=
  ⟨⟨"SKP_VX", 0xE09E, 0xF0FF⟩, by decide, rfl, (selects_XS _ (c := 14) (sub := 158) (by decide) rfl).mpr
      ⟨class_encodeXS (by decide) (by decide) _, low_encodeXS (by decide) (by decide) _⟩⟩

theorem MatchesRow.sknpVx (x : Reg) : MatchesRow.Statement (.sknpVx x) :=
  ⟨⟨"SKNP_VX", 0xE0A1, 0xF0FF⟩, by decide, rfl, (selects_XS _ (c := 14) (sub := 161) (by decide) rfl).mpr
      ⟨class_encodeXS (by decide) (by decide) _, low_encodeXS (by decide) (by decide) _⟩⟩

theorem MatchesRow.ldVxDt (x : Reg) : MatchesRow.Statement (.ldVxDt x) :=
  ⟨⟨"LD_VX_DT", 0xF007, 0xF0FF⟩, by decide, rfl, (selects_XS _ (c := 15) (sub := 7) (by decide) rfl).mpr
      ⟨class_encodeXS (by decide) (by decide) _, low_encodeXS (by decide) (by decide) _⟩⟩

theorem MatchesRow.ldVxK (x : Reg) : MatchesRow.Statement (.ldVxK x) :=
  ⟨⟨"LD_VX_K", 0xF00A, 0xF0FF⟩, by decide, rfl, (selects_XS _ (c := 15) (sub := 10) (by decide) rfl).mpr
      ⟨class_encodeXS (by decide) (by decide) _, low_encodeXS (by decide) (by decide) _⟩⟩

theorem MatchesRow.ldDtVx (x : Reg) : MatchesRow.Statement (.ldDtVx x) :=
  ⟨⟨"LD_DT_VX", 0xF015, 0xF0FF⟩, by decide, rfl, (selects_XS _ (c := 15) (sub := 21) (by decide) rfl).mpr
      ⟨class_encodeXS (by decide) (by decide) _, low_encodeXS (by decide) (by decide) _⟩⟩

theorem MatchesRow.ldStVx (x : Reg) : MatchesRow.Statement (.ldStVx x) :=
  ⟨⟨"LD_ST_VX", 0xF018, 0xF0FF⟩, by decide, rfl, (selects_XS _ (c := 15) (sub := 24) (by decide) rfl).mpr
      ⟨class_encodeXS (by decide) (by decide) _, low_encodeXS (by decide) (by decide) _⟩⟩

theorem MatchesRow.addIVx (x : Reg) : MatchesRow.Statement (.addIVx x) :=
  ⟨⟨"ADD_I_VX", 0xF01E, 0xF0FF⟩, by decide, rfl, (selects_XS _ (c := 15) (sub := 30) (by decide) rfl).mpr
      ⟨class_encodeXS (by decide) (by decide) _, low_encodeXS (by decide) (by decide) _⟩⟩

theorem MatchesRow.ldFVx (x : Reg) : MatchesRow.Statement (.ldFVx x) :=
  ⟨⟨"LD_F_VX", 0xF029, 0xF0FF⟩, by decide, rfl, (selects_XS _ (c := 15) (sub := 41) (by decide) rfl).mpr
      ⟨class_encodeXS (by decide) (by decide) _, low_encodeXS (by decide) (by decide) _⟩⟩

theorem MatchesRow.ldBVx (x : Reg) : MatchesRow.Statement (.ldBVx x) :=
  ⟨⟨"LD_B_VX", 0xF033, 0xF0FF⟩, by decide, rfl, (selects_XS _ (c := 15) (sub := 51) (by decide) rfl).mpr
      ⟨class_encodeXS (by decide) (by decide) _, low_encodeXS (by decide) (by decide) _⟩⟩

theorem MatchesRow.ldMiVx (x : Reg) : MatchesRow.Statement (.ldMiVx x) :=
  ⟨⟨"LD_MI_VX", 0xF055, 0xF0FF⟩, by decide, rfl, (selects_XS _ (c := 15) (sub := 85) (by decide) rfl).mpr
      ⟨class_encodeXS (by decide) (by decide) _, low_encodeXS (by decide) (by decide) _⟩⟩

theorem MatchesRow.ldVxMi (x : Reg) : MatchesRow.Statement (.ldVxMi x) :=
  ⟨⟨"LD_VX_MI", 0xF065, 0xF0FF⟩, by decide, rfl, (selects_XS _ (c := 15) (sub := 101) (by decide) rfl).mpr
      ⟨class_encodeXS (by decide) (by decide) _, low_encodeXS (by decide) (by decide) _⟩⟩

end Sys2Proof.Laws
end

