-- ==== Sys2Proof/Laws/Step.lean ====
section
/-! SUPPORT. What `Step` and the other operations can do, said once (spec/40_step_and_control.md R60,
spec/60_exceptions.md R150, R153, spec/70_reset_and_hazards.md R171). -/

namespace Sys2Proof.Machine

/-- Everything a step that answers `t` can have done: nothing (halted), the fault of the fetch, the execution of the
decoded instruction, or the fault of the decode. -/
theorem step_cases {s t : State} (h : step s = .next t) :
    (s.fault ≠ none ∧ t = s) ∨
    (s.fault = none ∧ s.fetchWord = none ∧ t = s.raise ⟨.fetchOutOfBounds, 0, s.pc⟩) ∨
    (∃ op i, s.fault = none ∧ s.fetchWord = some op ∧ decode op = .ok i ∧ exec i s = .next t) ∨
    ∃ op r, s.fault = none ∧ s.fetchWord = some op ∧ decode op = .error r ∧ t = s.raise ⟨.decodeError, op, s.pc⟩ := by
  unfold step at h
  split at h
  · rename_i hh
    exact .inl ⟨State.halted_eq_true.mp hh, by simpa using h.symm⟩
  · rename_i hh
    have hf : s.fault = none := State.halted_eq_false.mp (by simpa using hh)
    rcases s.fetchInstr_cases with ⟨hw, hi⟩ | ⟨op, i, hw, hd, hi⟩ | ⟨op, r, hw, hd, hi⟩
    · rw [hi] at h; exact .inr (.inl ⟨hf, hw, by simpa using h.symm⟩)
    · rw [hi] at h; exact .inr (.inr (.inl ⟨op, i, hf, hw, hd, h⟩))
    · rw [hi] at h; exact .inr (.inr (.inr ⟨op, r, hf, hw, hd, by simpa using h.symm⟩))

/-- A step that executes an instruction has fetched inside memory (R60). -/
theorem State.pc_le_of_fetchWord {s : State} {op : Word} (h : s.fetchWord = some op) : s.pc.toNat ≤ 0xFFE := by
  by_contra hp
  rw [State.fetchWord_eq_none (by omega)] at h
  simp at h

/-- The store through `I` (R106): all the bytes, or the fault and nothing else. -/
theorem storeAtI_cases (i : Instr) (bytes : List Byte) (s : State) :
    ((bytes.length = 0 ∨ s.i.toNat + bytes.length ≤ 4096) ∧
      storeAtI i bytes s = .next { s.advance with mem := s.mem.writeBytes s.i.toNat bytes }) ∨
    ((bytes.length ≠ 0 ∧ 4096 < s.i.toNat + bytes.length) ∧
      storeAtI i bytes s = .next (s.raiseBy .memOutOfBounds i)) := by
  by_cases h : bytes.length = 0 ∨ s.i.toNat + bytes.length ≤ 4096
  · exact .inl ⟨h, by simp [storeAtI, State.baseAddr, Memory.storeBytes_eq_some h]⟩
  · have h' : bytes.length ≠ 0 ∧ 4096 < s.i.toNat + bytes.length := by omega
    exact .inr ⟨h', by simp [storeAtI, State.baseAddr, Memory.storeBytes_eq_none.mpr h']⟩

/-- `Load` (R171): the copy, or the fault and nothing else. -/
theorem State.load_cases {s : State} (hf : s.fault = none) (bytes : List Byte) :
    (bytes.length ≤ 3584 ∧ s.load bytes = { s with mem := s.mem.writeBytes 0x200 bytes }) ∨
    (3584 < bytes.length ∧ s.load bytes = s.raise ⟨.loadTooLarge, 0, 0⟩) := by
  have hh : s.halted = false := State.halted_eq_false.mpr hf
  by_cases h : bytes.length ≤ 3584
  · refine .inl ⟨h, ?_⟩
    rw [State.load, hh, Memory.storeBytes_eq_some (by simp only [Config.programBase]; omega)]
    rfl
  · refine .inr ⟨by omega, ?_⟩
    rw [State.load, hh, Memory.storeBytes_eq_none.mpr (by simp only [Config.programBase]; omega)]
    rfl

/-- A timer counts down by one and stops at 0 (R153). -/
@[simp] theorem countDown_toNat (t : Byte) : (countDown t).toNat = t.toNat - 1 := by
  unfold countDown
  split
  · rename_i h; subst h; rfl
  · rename_i h
    have : t.toNat ≠ 0 := fun e => h (BitVec.eq_of_toNat_eq (by simpa using e))
    simp [BitVec.toNat_sub]; omega

/-- Displays with the same cells are equal (R18). -/
theorem Display.ext_lit {d d' : Display} (h : ∀ p, Display.lit d p = Display.lit d' p) : d = d' := by
  apply Vector.ext; intro y hy
  apply Vector.ext; intro x hx
  exact h ⟨⟨x, hx⟩, ⟨y, hy⟩⟩

end Sys2Proof.Machine
end

