-- ==== Sys2Proof/Tests/Slice0.lean ====
section
/-! SUPPORT. Tests: ill-formed data refused, every constructor's decoding by a word written out from R49, one step per
instruction with the expected values of spec/95_test_vectors.md (T, S) or of the rule's own example, and a witness for
every statement with hypotheses. -/

namespace Sys2Proof.Tests

open Sys2Proof Sys2Proof.Machine

/-! ## WellFormed: what the checks refuse (R50, R171) -/

theorem test_wf_refuses_class0 : definedWord 0x0123 = false ∧ definedWord 0x00E1 = false := by decide
theorem test_wf_refuses_class5_and_9 : definedWord 0x5121 = false ∧ definedWord 0x9121 = false := by decide
theorem test_wf_refuses_class8 : definedWord 0x8AB8 = false ∧ definedWord 0x8ABF = false := by decide
theorem test_wf_refuses_classE_and_F : definedWord 0xE39F = false ∧ definedWord 0xF4FF = false := by decide
theorem test_wf_accepts : definedWord 0x00EE = true ∧ definedWord 0x8ABE = true := by decide
theorem test_wf_image_3585_refused : wellFormedImage (List.replicate 3585 0) = false := by
  unfold wellFormedImage; rw [List.length_replicate]; decide
theorem test_wf_image_3584_accepted : wellFormedImage (List.replicate 3584 0) = true := by
  unfold wellFormedImage; rw [List.length_replicate]; decide
theorem test_wf_memory_refuses_unsorted : ¬ (Memory.mk defaultFont [(0x301, 1), (0x300, 1)]).wf := by decide
theorem test_wf_memory_refuses_repeat : ¬ (Memory.mk defaultFont [(0x300, 1), (0x300, 2)]).wf := by decide
theorem test_wf_memory_refuses_past_the_end : ¬ (Memory.mk defaultFont [(0x1000, 1)]).wf := by decide
theorem test_wf_memory_refuses_reset_value : ¬ (Memory.mk defaultFont [(0x000, 0xF0)]).wf := by decide

/-! ## Decode: one word of every constructor, written out from the pattern of R49 -/

theorem test_decode_nop : decode 0x0000 = .ok .nop := by decide
theorem test_decode_cls : decode 0x00E0 = .ok .cls := by decide
theorem test_decode_ret : decode 0x00EE = .ok .ret := by decide
theorem test_decode_jpNnn : decode 0x1ABC = .ok (.jpNnn 0xABC) := by decide
theorem test_decode_callNnn : decode 0x2ABC = .ok (.callNnn 0xABC) := by decide
theorem test_decode_seVxNn : decode 0x3A42 = .ok (.seVxNn 0xA 0x42) := by decide
theorem test_decode_sneVxNn : decode 0x4A42 = .ok (.sneVxNn 0xA 0x42) := by decide
theorem test_decode_seVxVy : decode 0x5120 = .ok (.seVxVy 1 2) := by decide
theorem test_decode_ldVxNn : decode 0x6A5C = .ok (.ldVxNn 0xA 0x5C) := by decide
theorem test_decode_addVxNn : decode 0x7A01 = .ok (.addVxNn 0xA 1) := by decide
theorem test_decode_ldVxVy : decode 0x8AB0 = .ok (.ldVxVy 0xA 0xB) := by decide
theorem test_decode_orVxVy : decode 0x8AB1 = .ok (.orVxVy 0xA 0xB) := by decide
theorem test_decode_andVxVy : decode 0x8AB2 = .ok (.andVxVy 0xA 0xB) := by decide
theorem test_decode_xorVxVy : decode 0x8AB3 = .ok (.xorVxVy 0xA 0xB) := by decide
theorem test_decode_addVxVy : decode 0x8AB4 = .ok (.addVxVy 0xA 0xB) := by decide
theorem test_decode_subVxVy : decode 0x8AB5 = .ok (.subVxVy 0xA 0xB) := by decide
theorem test_decode_shrVx : decode 0x8AB6 = .ok (.shrVx 0xA 0xB) := by decide
theorem test_decode_subnVxVy : decode 0x8AB7 = .ok (.subnVxVy 0xA 0xB) := by decide
theorem test_decode_shlVx : decode 0x8ABE = .ok (.shlVx 0xA 0xB) := by decide
theorem test_decode_sneVxVy : decode 0x9120 = .ok (.sneVxVy 1 2) := by decide
theorem test_decode_ldINnn : decode 0xA123 = .ok (.ldINnn 0x123) := by decide
theorem test_decode_jpV0Nnn : decode 0xB300 = .ok (.jpV0Nnn 0x300) := by decide
theorem test_decode_rndVxNn : decode 0xCA0F = .ok (.rndVxNn 0xA 0x0F) := by decide
theorem test_decode_drwVxVyN : decode 0xD123 = .ok (.drwVxVyN 1 2 3) := by decide
theorem test_decode_skpVx : decode 0xE39E = .ok (.skpVx 3) := by decide
theorem test_decode_sknpVx : decode 0xE3A1 = .ok (.sknpVx 3) := by decide
theorem test_decode_ldVxDt : decode 0xF407 = .ok (.ldVxDt 4) := by decide
theorem test_decode_ldVxK : decode 0xF40A = .ok (.ldVxK 4) := by decide
theorem test_decode_ldDtVx : decode 0xF415 = .ok (.ldDtVx 4) := by decide
theorem test_decode_ldStVx : decode 0xF418 = .ok (.ldStVx 4) := by decide
theorem test_decode_addIVx : decode 0xF51E = .ok (.addIVx 5) := by decide
theorem test_decode_ldFVx : decode 0xF529 = .ok (.ldFVx 5) := by decide
theorem test_decode_ldBVx : decode 0xF533 = .ok (.ldBVx 5) := by decide
theorem test_decode_ldMiVx : decode 0xF255 = .ok (.ldMiVx 2) := by decide
theorem test_decode_ldVxMi : decode 0xF265 = .ok (.ldVxMi 2) := by decide
theorem test_decode_undefined : decode 0x8AB8 = .error (.undefinedWord 0x8AB8) := by decide
theorem test_decode_truncated : decodeBytes [0x12] = .error .truncated := by decide
theorem test_table_word : decodeTableWord 16 0xD123 = some (.drwVxVyN 1 2 3) := by decide

/-! ## One step of every instruction -/

/-- The reset state with the word `w` at `pc` after one `Step`, the registers set first by `f`. -/
def run1 (w : Nat) (s : State) : State :=
  match step (s.withFetchWord 16 w) with
  | .next t => t
  | .fault _ => s
  | .refused _ => s

/-- The reset state with two registers set. -/
def regs (x : Reg) (a : Byte) (y : Reg) (b : Byte) : State := (State.reset.setV x a).setV y b

/-- The reset state with `I` and the bytes from `I` set. -/
def atI (i : Word) (bytes : List Byte) (s : State) : State := { s with i := i, mem := s.mem.writeBytes i.toNat bytes }

/-- The state with a fault of its own recorded, at the reset `pc`. -/
def faulted (c : FaultCause) (op : Word) : Option FaultRecord := some ⟨c, op, 0x200⟩

theorem test_nop_T1 :
    (run1 0x0000 State.reset).pc = 0x202 := by decide
theorem test_cls_T83 :
    (run1 0x00E0 { regs 15 1 0 0 with disp := Display.toggle Display.clear ⟨63, 31⟩ }).disp = Display.clear ∧
    (run1 0x00E0 (regs 15 1 0 0)).getV 15 = 1 := by decide
theorem test_ret_T2 :
    let t := run1 0x00EE { State.reset with sp := 1, stack := State.reset.stack.set 0 0xABC }
    t.pc = 0xABC ∧ t.sp = 0 := by decide
theorem test_ret_underflow_T3 :
    (run1 0x00EE State.reset).fault = faulted .stackUnderflow 0x00EE ∧ (run1 0x00EE State.reset).pc = 0x200 := by decide
theorem test_jp_T4 :
    (run1 0x1ABC State.reset).pc = 0xABC := by decide
theorem test_jp_self_T5 :
    run1 0x1200 State.reset = State.reset.withFetchWord 16 0x1200 := by decide
theorem test_call_T6 :
    let t := run1 0x2ABC State.reset
    t.pc = 0xABC ∧ t.sp = 1 ∧ t.stack[0] = 0x202 := by decide
theorem test_call_overflow_T7 :
    (run1 0x2ABC { State.reset with sp := 16 }).fault = faulted .stackOverflow 0x2ABC := by decide
theorem test_jpV0_T10 :
    (run1 0xBFFF (regs 0 0xFF 1 0)).pc = 0x10FE := by decide
theorem test_seVxNn_T14_T15 :
    (run1 0x3A42 (regs 0xA 0x42 0 0)).pc = 0x204 ∧ (run1 0x3A42 (regs 0xA 0x43 0 0)).pc = 0x202 := by decide
theorem test_sneVxNn_T16_T17 :
    (run1 0x4A42 (regs 0xA 0x42 0 0)).pc = 0x202 ∧ (run1 0x4A42 (regs 0xA 0x43 0 0)).pc = 0x204 := by decide
theorem test_seVxVy_T18_T19 :
    (run1 0x5120 (regs 1 7 2 7)).pc = 0x204 ∧ (run1 0x5120 (regs 1 7 2 8)).pc = 0x202 := by decide
theorem test_sneVxVy_T21_T22 :
    (run1 0x9120 (regs 1 7 2 7)).pc = 0x202 ∧ (run1 0x9120 (regs 1 7 2 8)).pc = 0x204 := by decide
theorem test_skip_at_the_end_T26 :
    (run1 0x3F00 { State.reset with pc := 0xFFE }).pc = 0x1002 := by decide
theorem test_ldVxNn_T27 :
    (run1 0x6A5C State.reset).getV 0xA = 0x5C := by decide
theorem test_addVxNn_T29 :
    let t := run1 0x7A01 (regs 0xA 0xFF 0xF 1)
    t.getV 0xA = 0 ∧ t.getV 0xF = 1 := by decide
theorem test_ldVxVy_T31 :
    (run1 0x8AB0 (regs 0xA 1 0xB 0x77)).getV 0xA = 0x77 := by decide
theorem test_or_T32 :
    let t := run1 0x8AB1 ((regs 0xA 0xF0 0xB 0x3C).setV 15 1)
    t.getV 0xA = 0xFC ∧ t.getV 15 = 1 := by decide
theorem test_and_T33 :
    let t := run1 0x8AB2 ((regs 0xA 0xF0 0xB 0x3C).setV 15 1)
    t.getV 0xA = 0x30 ∧ t.getV 15 = 1 := by decide
theorem test_xor_T34 :
    let t := run1 0x8AB3 ((regs 0xA 0xF0 0xB 0x3C).setV 15 1)
    t.getV 0xA = 0xCC ∧ t.getV 15 = 1 := by decide
theorem test_add_S4 :
    let t := run1 0x8AB4 (regs 0xA 0xFF 0xB 1)
    t.getV 0xA = 0 ∧ t.getV 15 = 1 := by decide
theorem test_add_into_VF_T40 :
    (run1 0x8FB4 (regs 15 1 0xB 2)).getV 15 = 0 := by decide
theorem test_sub_S5 :
    let t := run1 0x8AB5 (regs 0xA 3 0xB 5)
    t.getV 0xA = 0xFE ∧ t.getV 15 = 0 := by decide
theorem test_sub_equal_T42 :
    let t := run1 0x8AB5 (regs 0xA 7 0xB 7)
    t.getV 0xA = 0 ∧ t.getV 15 = 1 := by decide
theorem test_shr_T46 :
    let t := run1 0x8AB6 (regs 0xA 5 0xB 0xFF)
    t.getV 0xA = 2 ∧ t.getV 15 = 1 := by decide
theorem test_shr_VF_T49 :
    (run1 0x8FB6 (regs 15 2 0 0)).getV 15 = 0 := by decide
theorem test_subn_T51 :
    let t := run1 0x8AB7 (regs 0xA 5 0xB 3)
    t.getV 0xA = 0xFE ∧ t.getV 15 = 0 := by decide
theorem test_shl_T54 :
    let t := run1 0x8ABE (regs 0xA 0x81 0xB 0xFF)
    t.getV 0xA = 2 ∧ t.getV 15 = 1 := by decide
theorem test_shl_VF_T57 :
    (run1 0x8FBE (regs 15 0x41 0 0)).getV 15 = 0 := by decide
theorem test_ldI_T63 :
    (run1 0xA123 State.reset).i = 0x123 := by decide
theorem test_addI_T65 :
    (run1 0xF51E { regs 5 1 0 0 with i := 0xFFF }).i = 0x1000 := by decide
theorem test_addI_T66 :
    (run1 0xF51E { regs 5 2 0 0 with i := 0xFFFF }).i = 1 := by decide
theorem test_ldF_T69 :
    (run1 0xF529 (regs 5 0xFF 0 0)).i = 0x4FB := by decide
theorem test_ldB_T71 :
    let t := run1 0xF533 { regs 5 0xFE 0 0 with i := 0x300 }
    t.mem.readByte 0x300 = 2 ∧ t.mem.readByte 0x301 = 5 ∧ t.mem.readByte 0x302 = 4 ∧ t.mem.readByte 0x303 = 0 := by decide
theorem test_ldB_past_the_end_T74 :
    let s := { regs 5 0x64 0 0 with i := 0xFFE }
    (run1 0xF533 s).fault = faulted .memOutOfBounds 0xF533 ∧ (run1 0xF533 s).mem = (s.withFetchWord 16 0xF533).mem := by decide
theorem test_ldMi_T75 :
    let t := run1 0xF255 { ((regs 0 0x11 1 0x22).setV 2 0x33).setV 3 0x44 with i := 0x300 }
    t.mem.readByte 0x300 = 0x11 ∧ t.mem.readByte 0x302 = 0x33 ∧ t.mem.readByte 0x303 = 0 ∧ t.i = 0x300 := by decide
theorem test_ldMi_past_the_end_T77 :
    let t := run1 0xF155 { regs 0 0x11 1 0x22 with i := 0xFFF }
    t.fault = faulted .memOutOfBounds 0xF155 ∧ t.mem.readByte 0xFFF = 0 := by decide
theorem test_ldVxMi_T79 :
    let t := run1 0xF265 (atI 0x300 [1, 2, 3, 4] (regs 3 0x99 0 0))
    t.getV 0 = 1 ∧ t.getV 2 = 3 ∧ t.getV 3 = 0x99 ∧ t.i = 0x300 := by decide
theorem test_ldVxMi_past_the_end_T80 :
    let t := run1 0xF265 (atI 0xFFE [1, 2] (regs 0 9 1 0))
    t.fault = faulted .memOutOfBounds 0xF265 ∧ t.getV 0 = 9 := by decide
theorem test_drw_wraps_P3 :
    let t := run1 0xD012 (atI 0x20E [0xC3, 0x81] (regs 0 62 1 31))
    t.disp = (Display.draw Display.clear [⟨62, 31⟩, ⟨63, 31⟩, ⟨4, 31⟩, ⟨5, 31⟩, ⟨62, 0⟩, ⟨5, 0⟩]).1 ∧ t.getV 15 = 0 := by decide
theorem test_drw_collision_T86 :
    let t := run1 0xD121 { atI 0x300 [0xC0] (regs 1 10 2 5) with disp := Display.toggle Display.clear ⟨11, 5⟩ }
    t.disp = Display.toggle Display.clear ⟨10, 5⟩ ∧ t.getV 15 = 1 := by decide
theorem test_skp_T94_T95 :
    (run1 0xE39E { regs 3 7 0 0 with keys := State.reset.keys.set 7 true }).pc = 0x204 ∧
    (run1 0xE39E { regs 3 7 0 0 with keys := State.reset.keys.set 6 true }).pc = 0x202 := by decide
theorem test_skp_above_15_T98 :
    (run1 0xE39E (regs 3 0x10 0 0)).fault = faulted .keyIndexOutOfRange 0xE39E := by decide
theorem test_sknp_T96_T97 :
    (run1 0xE3A1 { regs 3 7 0 0 with keys := State.reset.keys.set 7 true }).pc = 0x202 ∧
    (run1 0xE3A1 (regs 3 7 0 0)).pc = 0x204 := by decide
theorem test_sknp_above_15_T99 :
    (run1 0xE3A1 (regs 3 0xFF 0 0)).fault = faulted .keyIndexOutOfRange 0xE3A1 := by decide
theorem test_ldVxK_waits_T101 :
    run1 0xF40A (regs 4 0x55 0 0) = (regs 4 0x55 0 0).withFetchWord 16 0xF40A := by decide
theorem test_ldVxK_least_S9 :
    let t := run1 0xF40A { regs 4 0x55 0 0 with keys := ((State.reset.keys.set 9 true).set 2 true).set 12 true }
    t.getV 4 = 2 ∧ t.pc = 0x202 := by decide
theorem test_ldVxDt_T103 :
    (run1 0xF407 { State.reset with dt := 0x2A }).getV 4 = 0x2A := by decide
theorem test_ldDtVx_T104 :
    (run1 0xF415 (regs 4 0x3C 0 0)).dt = 0x3C := by decide
theorem test_ldStVx_T105 :
    let t := run1 0xF418 (regs 4 1 0 0)
    t.st = 1 ∧ t.getSound = true := by decide
theorem test_undefined_T59 :
    (run1 0x8ABF State.reset).fault = faulted .decodeError 0x8ABF ∧ (run1 0x8ABF State.reset).pc = 0x200 := by decide
theorem test_rnd_mask_zero_T62 : (run1 0xCA00 (regs 0xA 0x55 0 0)).getV 0xA = 0 := by
  show (State.nextRand _ &&& 0) = 0
  simp
theorem test_rnd_given_byte_T60 :
    (State.stepWith 0xA7 (State.reset.withFetchWord 16 0xCA0F)).getV 0xA = 7 := by decide
theorem test_drw_zero_rows_T89 :
    let t := run1 0xD120 { (regs 1 3 2 3).setV 15 1 with i := 0xFFFF }
    t.disp = Display.clear ∧ t.getV 15 = 0 ∧ t.fault = none := by decide
theorem test_odd_pc_T13 :
    (run1 0x016A { State.reset with pc := 0x201 }).fault = some ⟨.decodeError, 0x016A, 0x201⟩ := by decide
theorem test_fetch_past_the_end_T12 :
    step { State.reset with pc := 0xFFF } = .next { State.reset with pc := 0xFFF, fault := some ⟨.fetchOutOfBounds, 0, 0xFFF⟩ } :=
  rfl
theorem test_default_font_T82 :
    let t := run1 0xFF65 State.reset
    t.getV 0 = 0xF0 ∧ t.getV 6 = 0x60 ∧ t.getV 15 = 0xF0 := by decide

/-! ## The other operations -/

theorem test_load_S2 :
    let t := State.reset.load [0x12, 0x34, 0x56]
    t.mem.readByte 0x200 = 0x12 ∧ t.mem.readByte 0x202 = 0x56 ∧ t.mem.readByte 0x203 = 0 ∧ t.mem.readByte 0x1FF = 0 := by
  decide
theorem test_load_twice_T117 :
    let t := (State.reset.load [0x60, 1, 0x61, 2]).load [0x6A]
    t.mem.readByte 0x200 = 0x6A ∧ t.mem.readByte 0x201 = 1 := by decide
theorem test_load_empty_T116 : State.reset.load [] = State.reset := by decide
theorem test_tick_T84 :
    (State.tickTimers { State.reset with st := 2 }).2 = none ∧ (State.tickTimers { State.reset with st := 1 }).2 = some .toneTrigger ∧
    (State.tickTimers { State.reset with st := 1 }).1.getSound = false ∧ (State.tickTimers State.reset).2 = none := by decide
theorem test_halted_T113 :
    let s := run1 0xFFFF State.reset
    s.after [.step 0, .tickTimers, .setKey 1 true, .load [0]] = s := by decide
theorem test_reset_clears_the_fault_T114 : ((run1 0xFFFF State.reset).after [.reset]) = State.reset := by decide
theorem test_fault_codes_R140 :
    [FaultCause.loadTooLarge, .decodeError, .stackOverflow, .stackUnderflow, .fetchOutOfBounds, .memOutOfBounds,
      .keyIndexOutOfRange].map FaultCause.code = [1, 2, 3, 4, 5, 6, 7] := by decide
/-- P4, self-modifying code, its first five steps. -/
theorem test_self_modifying_P4 :
    ((State.reset.load [0x60, 0x62, 0x61, 0xAA, 0xA2, 0x08, 0xF1, 0x55, 0x62, 0x01]).after
      (List.replicate 5 (.step 0))).getV 2 = 0xAA := by decide

/-! ## Witnesses: states and operands that meet the hypotheses of the statements

Named after the statement; where a statement has several clauses, one for each, at a boundary. -/

/-- A reset state ready to run the word `w`. -/
def ready (w : Nat) : State := State.reset.withFetchWord 16 w

theorem witness_DecodeThenEncodeIsIdentity : decode 0x8ABE = .ok (.shlVx 0xA 0xB) := by decide
theorem witness_DecodeFollowsTheOpcodeTable :
    decode 0xFF65 = .ok (.ldVxMi 15) ∧ decode 0xFF66 = .error (.undefinedWord 0xFF66) := by decide
theorem witness_OpcodeRowsAreMutuallyExclusive :
    ∃ r ∈ opcodeTable, r.selects 0x00EE = true := ⟨⟨"RET", 0x00EE, 0xFFFF⟩, by decide, by decide⟩
theorem witness_DecodeBytesTakesTwoBytesHighFirst :
    decodeBytes [0xD1, 0x23, 0xFF] = .ok (.drwVxVyN 1 2 3, [0xFF]) := by decide
theorem witness_StepRunsTheDecodedInstruction :
    let s := { State.reset with pc := 0xFFE }
    s.fault = none ∧ s.pc.toNat ≤ 0xFFE ∧
      decode (wordOfBytes (s.mem.readByte s.pc.toNat) (s.mem.readByte (s.pc.toNat + 1))) = .ok .nop := by decide
theorem witness_FetchPastTheEndLatchesFetchOutOfBounds :
    let s := { State.reset with pc := 0xFFF }
    s.fault = none ∧ s.pc.toNat > 0xFFE := by decide
theorem witness_UndefinedWordLatchesDecodeError :
    let s := ready 0x5121
    s.fault = none ∧ s.pc.toNat ≤ 0xFFE ∧
      definedWord (wordOfBytes (s.mem.readByte s.pc.toNat) (s.mem.readByte (s.pc.toNat + 1))) = false := by decide
theorem witness_HaltedMachineIgnoresAllButReset : (run1 0x00EE State.reset).fault ≠ none ∧ Operation.tickTimers ≠ .reset := by
  decide
theorem witness_FaultingStepIsPrecise :
    (ready 0x00EE).fault = none ∧ step (ready 0x00EE) = .next (run1 0x00EE State.reset) ∧
      (run1 0x00EE State.reset).fault = some ⟨.stackUnderflow, 0x00EE, 0x200⟩ := ⟨by decide, rfl, by decide⟩
theorem witness_InstructionsFaultExactlyAsListed :
    (∃ t, exec .ret State.reset = .next t) ∧ faultOf State.reset .ret = some .stackUnderflow ∧
      faultOf { State.reset with sp := 1 } .ret = none := ⟨⟨_, rfl⟩, by decide, by decide⟩
theorem witness_InstructionsChangeOnlyWhatTheyList :
    (∃ t, exec (.addVxVy 1 2) State.reset = .next t) ∧ faultOf State.reset (.addVxVy 1 2) = none ∧
      ¬ writesReg 3 (.addVxVy 1 2) := ⟨⟨_, rfl⟩, by decide, by simp [writesReg]⟩
theorem witness_InstructionsChangeOnlyWhatTheyList_bytes :
    let s := { State.reset with i := 0xFFD }
    let s' := { State.reset with i := 0xFEF }
    faultOf s (.ldBVx 0) = none ∧ ¬ writesByte s 0xFFC (.ldBVx 0) ∧
      faultOf s' (.ldMiVx 15) = none ∧ ¬ writesByte s' 0xFEE (.ldMiVx 15) ∧ ¬ writesByte s' 0xFFF (.ldMiVx 15) :=
  ⟨by decide, by simp [writesByte, State.baseAddr], by decide, by simp [writesByte, State.baseAddr],
    by simp [writesByte, State.baseAddr]⟩
theorem witness_FlagIsZeroOrOne :
    (∃ t, exec (.drwVxVyN 15 15 15) { State.reset with i := 0xFF1 } = .next t) ∧
      faultOf { State.reset with i := 0xFF1 } (.drwVxVyN 15 15 15) = none := ⟨⟨_, rfl⟩, by decide⟩
theorem witness_RandMattersOnlyToRnd : ∀ x nn, State.reset.fetchInstr ≠ .ok (.rndVxNn x nn) := by
  intro x nn
  have : State.reset.fetchInstr = .ok .nop := by decide
  rw [this]; simp
theorem witness_CallPushesTheReturnAddress : (State.mk (State.reset.v) 0xFFE 0 State.reset.stack 15 0 0 State.reset.keys
    State.reset.disp State.reset.mem none 0).sp.val < 16 := by decide
theorem witness_ReturnPopsTheNewestAddress :
    { State.reset with sp := 16 }.sp.val = (15 : Fin 16).val + 1 ∧ { State.reset with sp := 1 }.sp.val = (0 : Fin 16).val + 1 := by
  decide
theorem witness_StackLimitsLatchFaults : { State.reset with sp := 16 }.sp.val = 16 ∧ State.reset.sp.val = 0 := by decide
theorem witness_CallThenReturnRestoresPc :
    { State.reset with sp := 15 }.sp.val < 16 ∧ (∃ t, exec (.callNnn 0x300) { State.reset with sp := 15 } = .next t) ∧
      (14 : Fin 16).val ≠ { State.reset with sp := 15 }.sp.val := ⟨by decide, ⟨_, rfl⟩, by decide⟩
theorem witness_ImmediateAddWrapsWithNoFlag : (15 : Reg) ≠ 0 := by decide
theorem witness_LogicIsBitwiseWithNoFlag : (15 : Reg) ≠ 14 := by decide
theorem witness_AddGivesSumAndCarry : (14 : Reg) ≠ 15 ∧ (3 : Reg) ≠ 14 ∧ (3 : Reg) ≠ 15 := by decide
theorem witness_SubtractionsGiveDifferenceAndNoBorrow : (0 : Reg) ≠ 15 := by decide
theorem witness_ShiftsMoveVxAndKeepTheLostBit : (0 : Reg) ≠ 15 := by decide
theorem witness_RndMasksAnyByte :
    (ready 0xCA0F).fault = none ∧ (ready 0xCA0F).fetchInstr = .ok (.rndVxNn 0xA 0x0F) := by decide
theorem witness_DecimalDigitsAreStoredAtI : { State.reset with i := 0xFFD }.i.toNat + 2 ≤ 0xFFF := by decide
theorem witness_RegistersAreStoredAtI : { State.reset with i := 0xFF0 }.i.toNat + (15 : Reg).val ≤ 0xFFF := by decide
theorem witness_RegistersAreLoadedFromI : { State.reset with i := 0xFFF }.i.toNat + (0 : Reg).val ≤ 0xFFF := by decide
theorem witness_AccessPastTheEndLatchesMemOutOfBounds :
    { State.reset with i := 0xFFE }.i.toNat + 2 > 0xFFF ∧ { State.reset with i := 0xFF1 }.i.toNat + (15 : Reg).val > 0xFFF ∧
    { State.reset with i := 0x1000 }.i.toNat + (0 : Reg).val > 0xFFF ∧
    ((1 : Fin 16).val > 0 ∧ { State.reset with i := 0x1000 }.i.toNat + (1 : Fin 16).val - 1 > 0xFFF) := by decide
theorem witness_StoreThenLoadGivesTheRegistersBack :
    { State.reset with i := 0xFF0 }.i.toNat + (15 : Reg).val ≤ 0xFFF ∧
      ∃ t, exec (.ldMiVx 15) { State.reset with i := 0xFF0 } = .next t := ⟨by decide, ⟨_, rfl⟩⟩
theorem witness_StoreIsSeenByTheNextFetch :
    let s := { State.reset with i := 0x202 }
    (1 : Reg).val ≥ 1 ∧ s.i = s.pc + 2 ∧ s.i.toNat + (1 : Reg).val ≤ 0xFFF ∧ ∃ t, exec (.ldMiVx 1) s = .next t :=
  ⟨by decide, by decide, by decide, ⟨_, rfl⟩⟩
theorem witness_CanonicalMemoriesThatReadAlikeAreEqual :
    let m := State.reset.mem.writeByte 0x300 1
    let m' := (State.reset.mem.writeByte 0x300 2).writeByte 0x300 1
    m.wf ∧ m'.wf ∧ m.font = m'.font ∧ ∀ a, a < 4096 → m.readByte a = m'.readByte a := by
  refine ⟨by decide, by decide, rfl, fun a _ => ?_⟩
  by_cases h : a = 0x300
  · subst h; simp
  · simp [Memory.readByte_writeByte_of_ne _ _ h]
theorem witness_DrawXorsTheSpriteAndReportsCollision_in_memory :
    ((15 : Fin 16).val = 0 ∨ { State.reset with i := 0xFF1 }.i.toNat + (15 : Fin 16).val - 1 ≤ 0xFFF) ∧
    ((0 : Fin 16).val = 0 ∨ { State.reset with i := 0xFFFF }.i.toNat + (0 : Fin 16).val - 1 ≤ 0xFFF) := by decide
theorem witness_DrawXorsTheSpriteAndReportsCollision_covered_cell :
    let s := { atI 0xFFF [0x80] State.reset with disp := Display.toggle Display.clear ⟨63, 31⟩ }
    SpriteCovers s 0xFF 0xFF 1 ⟨63, 31⟩ ∧ s.disp.lit ⟨63, 31⟩ = true :=
  ⟨⟨0, 0, by decide, by decide, by decide, by decide, by decide⟩, by decide⟩
theorem witness_DrawXorsTheSpriteAndReportsCollision_no_collision :
    let s := State.reset
    (∀ p, SpriteCovers s 0 0 5 p → s.disp.lit p = false) ∧ ¬ SpriteCovers s 0 0 0 ⟨0, 0⟩ := by
  refine ⟨fun p _ => ?_, ?_⟩
  · simp [State.reset, State.resetWith, Display.lit]
  · rintro ⟨r, k, h, -⟩
    simp at h
theorem witness_DrawingTwiceRestoresTheDisplay :
    let s := atI 0x300 [0xC0] State.reset
    (1 : Reg) ≠ 15 ∧ (2 : Reg) ≠ 15 ∧ s.i.toNat + (1 : Fin 16).val - 1 ≤ 0xFFF ∧ (∃ t, exec (.drwVxVyN 1 2 1) s = .next t) ∧
    SpriteCovers s (s.getV 1) (s.getV 2) 1 ⟨0, 0⟩ :=
  ⟨by decide, by decide, by decide, ⟨_, rfl⟩, ⟨0, 0, by decide, by decide, by decide, by decide, by decide⟩⟩
theorem witness_KeySkipsTestTheKeyVxNames : ((regs 3 15 0 0).getV 3).toNat = (15 : Fin 16).val := by decide
theorem witness_KeyAboveFifteenLatchesKeyIndexOutOfRange : ((regs 3 16 0 0).getV 3).toNat > 15 := by decide
theorem witness_KeyWaitRetriesUntilAKeyIsDown_no_key : ∀ k : Fin 16, State.reset.keys[k] = false := by decide
theorem witness_KeyWaitRetriesUntilAKeyIsDown_key_fifteen :
    let s := { State.reset with keys := State.reset.keys.set 15 true }
    s.keys[(15 : Fin 16)] = true ∧ ∀ j : Fin 16, j < 15 → s.keys[j] = false := by decide
theorem witness_TicksCountBothTimersDownToZero : State.reset.fault = none := rfl
theorem witness_ToneTriggerExactlyWhenStIsOne :
    (Operation.tickTimers.apply { State.reset with st := 1 }).2 = some .toneTrigger := by decide
theorem witness_SetKeyIsSeenByTheNextStep :
    (ready 0xE39E).fault = none ∧ (ready 0xE39E).fetchInstr = .ok (.skpVx 3) ∧
      ((ready 0xE39E).getV 3).toNat = (0 : Fin 16).val ∧ (15 : Fin 16) ≠ 0 := by decide
theorem witness_LoadCopiesTheImageOrRejectsIt :
    State.reset.fault = none ∧ (List.replicate 3584 (0x12 : Byte)).length ≤ 3584 ∧
      3584 < (List.replicate 3585 (0x12 : Byte)).length :=
  ⟨rfl, Nat.le_of_eq List.length_replicate, Nat.le_of_eq List.length_replicate.symm⟩
theorem witness_StepKeepsInv : Inv (ready 0x2200) ∧ ∃ t, step (ready 0x2200) = .next t :=
  ⟨⟨by decide, by decide, by decide⟩, ⟨_, rfl⟩⟩
theorem witness_OperationsKeepInv : Inv (run1 0x00EE State.reset) := ⟨by decide, by decide, by decide⟩
theorem witness_OperationsKeepFaultRecordTrue :
    FaultRecordTrue (run1 0x00EE State.reset) ∧ (run1 0x00EE State.reset).fault ≠ none :=
  ⟨by show _ ∧ _; decide, by decide⟩
theorem witness_ReachableStatesAreGood : Reachable (State.reset.after [.load [0x12, 0x00], .step 0]) :=
  ⟨defaultFont, 0, _, rfl⟩
theorem witness_FinishedProgramStaysFinished : Finished (ready 0x1200) := ⟨rfl, 0x200, by decide, by decide⟩
theorem witness_DriverContract : DriverContract [.load [0x12, 0x00], .step 0, .tickTimers] := by
  intro op h
  simp at h
  rcases h with rfl | rfl
  · exact .inl ⟨0, rfl⟩
  · exact .inr (.inl rfl)

end Sys2Proof.Tests
end

section
/-! What the encoder writes from the fields of a word (spec/30_encoding.md R46, R47): the word itself, when the class and
the sub-opcode are the word's own. -/

namespace Sys2Proof

theorem encodeA_fieldNNN {op : Word} {c : Nat} (hc : slice op 15 12 = c) : encodeA c (fieldNNN op) = op := by
  have hlt : c < 16 := hc ▸ slice_lt op 15 12
  apply BitVec.eq_of_toNat_eq
  rw [encodeA_toNat hlt]
  simp [fieldNNN, slice] at hc ⊢; omega

theorem encodeXB_fields {op : Word} {c : Nat} (hc : slice op 15 12 = c) :
    encodeXB c (fieldX op) (fieldNN op) = op := by
  have hlt : c < 16 := hc ▸ slice_lt op 15 12
  apply BitVec.eq_of_toNat_eq
  rw [encodeXB_toNat hlt]
  simp [fieldX, fieldNN, slice] at hc ⊢; omega

theorem encodeXYN_fields {op : Word} {c n : Nat} (hc : slice op 15 12 = c) (hn : slice op 3 0 = n) :
    encodeXYN c (fieldX op) (fieldY op) n = op := by
  have hlt : c < 16 := hc ▸ slice_lt op 15 12
  have hnlt : n < 16 := hn ▸ slice_lt op 3 0
  apply BitVec.eq_of_toNat_eq
  rw [encodeXYN_toNat hlt hnlt]
  simp [fieldX, fieldY, slice] at hc hn ⊢; omega

theorem encodeXS_fieldX {op : Word} {c sub : Nat} (hc : slice op 15 12 = c) (hs : slice op 7 0 = sub) :
    encodeXS c (fieldX op) sub = op := by
  have hlt : c < 16 := hc ▸ slice_lt op 15 12
  have hslt : sub < 256 := hs ▸ slice_lt op 7 0
  apply BitVec.eq_of_toNat_eq
  rw [encodeXS_toNat hlt hslt]
  simp [fieldX, slice] at hc hs ⊢; omega

/-- A word of class 0 is its low twelve bits. -/
theorem toNat_of_class0 {op : Word} (hc : slice op 15 12 = 0) : op.toNat = slice op 11 0 := by
  simp [slice] at hc ⊢; omega

theorem encode_of_decodeClass0 {op : Word} {i : Instr} (hc : slice op 15 12 = 0) (h : decodeClass0 op = .ok i) :
    encode i = op := by
  unfold decodeClass0 at h
  split at h <;> cases h <;> exact BitVec.eq_of_toNat_eq ((toNat_of_class0 hc).trans ‹_›).symm

theorem encode_of_decodeClass8 {op : Word} {i : Instr} (hc : slice op 15 12 = 8) (h : decodeClass8 op = .ok i) :
    encode i = op := by
  unfold decodeClass8 at h
  split at h <;> cases h <;> exact encodeXYN_fields hc ‹_›

theorem encode_of_decodeClassE {op : Word} {i : Instr} (hc : slice op 15 12 = 14) (h : decodeClassE op = .ok i) :
    encode i = op := by
  unfold decodeClassE at h
  split at h <;> cases h <;> exact encodeXS_fieldX hc ‹_›

theorem encode_of_decodeClassF {op : Word} {i : Instr} (hc : slice op 15 12 = 15) (h : decodeClassF op = .ok i) :
    encode i = op := by
  unfold decodeClassF at h
  split at h <;> cases h <;> exact encodeXS_fieldX hc ‹_›

/-- A word that decodes is the encoding of its instruction (R49), so the word in an instruction's fault record is the word
fetched (log 9). The cases are the classes of `decode`. -/
theorem encode_of_decode {op : Word} {i : Instr} (h : decode op = .ok i) : encode i = op := by
  unfold decode at h
  split at h
  case h_1 hc => exact encode_of_decodeClass0 hc h
  case h_6 hc =>
    split at h
    next hn => cases h; exact encodeXYN_fields hc hn
    next => cases h
  case h_9 hc => exact encode_of_decodeClass8 hc h
  case h_10 hc =>
    split at h
    next hn => cases h; exact encodeXYN_fields hc hn
    next => cases h
  case h_14 hc => cases h; exact encodeXYN_fields hc (by simp [fieldN, slice])
  case h_15 hc => exact encode_of_decodeClassE hc h
  case h_16 hc => exact encode_of_decodeClassF hc h
  case h_2 hc | h_3 hc | h_11 hc | h_12 hc => cases h; exact encodeA_fieldNNN hc
  case h_4 hc | h_5 hc | h_7 hc | h_8 hc | h_13 hc => cases h; exact encodeXB_fields hc
  case h_17 => cases h

end Sys2Proof
end

section
/-! What executing an instruction can do, said once for all 35 (spec/40_step_and_control.md R60, spec/60_exceptions.md
R140, R150): it raises the fault of R140's table, or it completes within the bounds of R13's range paragraph. -/

namespace Sys2Proof.Machine

/-- What every completing instruction does to the parts that `Inv` and the latch speak of: `pc` moves on by at most 4, or
to a jump target, or to a stack entry; a stack entry stays or becomes the advanced `pc`; memory stays canonical. -/
structure Completes (s t : State) : Prop where
  fault_eq : t.fault = s.fault
  mem_wf : s.mem.wf → t.mem.wf
  pc_target : t.pc.toNat ≤ s.pc.toNat + 4 ∨ t.pc.toNat ≤ 0x10FE ∨ ∃ k : Fin 16, t.pc = s.stack[k]
  stack_entry : ∀ k : Fin 16, t.stack[k] = s.stack[k] ∨ t.stack[k] = s.pc + 2

/-- The two answers of the execution of `i`: its fault, exactly under the condition of R140's table, or completion. -/
def FaultsOrCompletes (i : Instr) (s t : State) : Prop :=
  (∃ c, faultOf s i = some c ∧ t = s.raiseBy c i) ∨ (faultOf s i = none ∧ Completes s t)

/-! ## The ways to complete -/

theorem Completes.of_pc {s t : State} (hf : t.fault = s.fault) (hm : t.mem = s.mem) (hs : t.stack = s.stack)
    (hpc : t.pc.toNat ≤ s.pc.toNat + 4 ∨ t.pc.toNat ≤ 0x10FE ∨ ∃ k : Fin 16, t.pc = s.stack[k]) : Completes s t where
  fault_eq := hf
  mem_wf := by rw [hm]; exact id
  pc_target := hpc
  stack_entry k := .inl (by rw [hs])

/-- Addition modulo 65536 is at most the sum (R7). -/
theorem toNat_add_le (a b : Word) : (a + b).toNat ≤ a.toNat + b.toNat := by
  rw [BitVec.toNat_add]
  exact Nat.mod_le _ _

theorem pc_add_two_le (pc : Word) : (pc + 2).toNat ≤ pc.toNat + 4 :=
  (toNat_add_le pc 2).trans (Nat.add_le_add_left (by decide) _)

theorem Completes.of_advance {s t : State} (hf : t.fault = s.fault) (hm : t.mem = s.mem) (hs : t.stack = s.stack)
    (hpc : t.pc = s.pc + 2) : Completes s t :=
  .of_pc hf hm hs (.inl (hpc ▸ pc_add_two_le s.pc))

theorem Completes.skipIf (s : State) (taken : Bool) : Completes s (s.advance.skipIf taken) := by
  refine .of_pc (by simp) (by simp) (by simp) (.inl ?_)
  cases taken
  · exact pc_add_two_le s.pc
  · rw [State.skipIf_pc, if_pos rfl, State.advance_pc, BitVec.add_assoc]
    exact toNat_add_le s.pc 4

theorem Completes.of_rndEffect (rand : Byte) (x : Reg) (nn : Byte) (s : State) : Completes s (rndEffect rand x nn s) :=
  .of_advance rfl rfl rfl rfl

/-- A CALL puts the advanced `pc` in one entry and jumps (R64). -/
theorem Completes.call {s t : State} (h : s.advance.push s.advance.pc = some t) (nnn : Addr12) :
    Completes s { t with pc := zext16 nnn } := by
  have hlt : s.sp.val < 16 := by
    have hne := mt State.push_eq_none.mpr (h ▸ Option.some_ne_none t)
    have := s.sp.isLt
    simp only [State.advance_sp] at hne
    omega
  obtain rfl := Option.some.inj ((State.push_eq_some (s := s.advance) hlt _).symm.trans h)
  refine ⟨rfl, id, .inr (.inl (by simp; omega)), fun k => ?_⟩
  by_cases hk : s.sp.val = k.val
  · exact .inr (by simp [hk])
  · exact .inl (by simp [hk])

/-- A RET ends at the popped entry (R62). -/
theorem Completes.ret {s t : State} (h : s.advance.popPc = some t) : Completes s t := by
  obtain ⟨k, hk⟩ : ∃ k : Fin 16, s.sp.val = k.val + 1 := by
    have hne := mt State.popPc_eq_none.mpr (h ▸ Option.some_ne_none t)
    simp only [State.advance_sp] at hne
    exact ⟨⟨s.sp.val - 1, by omega⟩, by simp; omega⟩
  obtain rfl := Option.some.inj ((State.popPc_eq_some (s := s.advance) k hk).symm.trans h)
  exact .of_pc rfl rfl rfl (.inr (.inr ⟨k, rfl⟩))

/-! ## Every instruction -/

/-- An instruction guarded by a checked operation `o`: it faults when the operation gives nothing, which is the condition
`P` of R140's table, and completes otherwise. -/
theorem guarded_answers {α : Type} {i : Instr} {s : State} {c : FaultCause} {P : Prop} [Decidable P] {o : Option α}
    (hP : o = none ↔ P) (hf : faultOf s i = if P then some c else none)
    (hnone : o = none → exec i s = .next (s.raiseBy c i))
    (hsome : ∀ a, o = some a → ∃ t, exec i s = .next t ∧ Completes s t) :
    ∃ t, exec i s = .next t ∧ FaultsOrCompletes i s t := by
  cases ho : o with
  | some a =>
    obtain ⟨t, he, hc⟩ := hsome a ho
    exact ⟨t, he, .inr ⟨by rw [hf, if_neg (by simp [← hP, ho])], hc⟩⟩
  | none => exact ⟨_, hnone ho, .inl ⟨c, by rw [hf, if_pos (hP.mp ho)], rfl⟩⟩

theorem exec_ret_answers (s : State) : ∃ t, exec .ret s = .next t ∧ FaultsOrCompletes .ret s t :=
  guarded_answers (State.popPc_eq_none (s := s.advance)) rfl
    (fun h => by simp only [exec, execRet, h])
    (fun t h => ⟨t, by simp only [exec, execRet, h], .ret h⟩)

theorem exec_callNnn_answers (nnn : Addr12) (s : State) :
    ∃ t, exec (.callNnn nnn) s = .next t ∧ FaultsOrCompletes (.callNnn nnn) s t :=
  guarded_answers (State.push_eq_none (s := s.advance) (ret := s.advance.pc)) rfl
    (fun h => by simp only [exec, execCallNnn, h])
    (fun _ h => ⟨_, by simp only [exec, execCallNnn, h], .call h nnn⟩)

theorem exec_skpVx_answers (x : Reg) (s : State) :
    ∃ t, exec (.skpVx x) s = .next t ∧ FaultsOrCompletes (.skpVx x) s t :=
  guarded_answers keyIndex_eq_none rfl
    (fun h => by simp only [exec, execSkpVx, h])
    (fun k h => ⟨_, by simp only [exec, execSkpVx, h], .skipIf s s.keys[k]⟩)

theorem exec_sknpVx_answers (x : Reg) (s : State) :
    ∃ t, exec (.sknpVx x) s = .next t ∧ FaultsOrCompletes (.sknpVx x) s t :=
  guarded_answers keyIndex_eq_none rfl
    (fun h => by simp only [exec, execSknpVx, h])
    (fun k h => ⟨_, by simp only [exec, execSknpVx, h], .skipIf s (!s.keys[k])⟩)

theorem exec_drwVxVyN_answers (x y : Reg) (n : Fin 16) (s : State) :
    ∃ t, exec (.drwVxVyN x y n) s = .next t ∧ FaultsOrCompletes (.drwVxVyN x y n) s t := by
  refine guarded_answers (o := s.mem.loadBytes s.baseAddr n.val) ?_ rfl
    (fun h => by simp only [exec, execDrwVxVyN, h]) (fun rows h => ?_)
  · rw [Memory.loadBytes_eq_none, State.baseAddr]; omega
  · simp only [exec, execDrwVxVyN, h]
    exact ⟨_, rfl, .of_advance rfl rfl rfl rfl⟩

theorem exec_ldVxMi_answers (x : Reg) (s : State) :
    ∃ t, exec (.ldVxMi x) s = .next t ∧ FaultsOrCompletes (.ldVxMi x) s t := by
  refine guarded_answers (o := s.mem.loadBytes s.baseAddr (x.val + 1)) ?_ rfl
    (fun h => by simp only [exec, execLdVxMi, h]) (fun bytes h => ?_)
  · rw [Memory.loadBytes_eq_none, State.baseAddr]; omega
  · exact ⟨s.advance.loadRegs bytes, by simp only [exec, execLdVxMi, h], .of_advance rfl rfl rfl rfl⟩

/-- A store through `I` of at least one byte (R106). -/
theorem storeAtI_answers {i : Instr} {bytes : List Byte} {s : State} (hn : bytes.length ≠ 0)
    (hf : faultOf s i = if s.i.toNat + (bytes.length - 1) > 0xFFF then some .memOutOfBounds else none) :
    ∃ t, storeAtI i bytes s = .next t ∧ FaultsOrCompletes i s t := by
  rcases storeAtI_cases i bytes s with ⟨hb, he⟩ | ⟨hb, he⟩
  · refine ⟨_, he, .inr ⟨by rw [hf, if_neg (by omega)], ?_⟩⟩
    exact {
      fault_eq := rfl
      mem_wf := fun hw => Memory.wf_writeBytes hw (.inr (by simp only [Config.memSize]; omega))
      pc_target := .inl (pc_add_two_le s.pc)
      stack_entry := fun _ => .inl rfl }
  · exact ⟨_, he, .inl ⟨_, by rw [hf, if_pos (by omega)], rfl⟩⟩

theorem exec_ldVxK_answers (x : Reg) (s : State) :
    ∃ t, exec (.ldVxK x) s = .next t ∧ FaultsOrCompletes (.ldVxK x) s t := by
  simp only [exec, execLdVxK]
  cases s.firstKey with
  | some k => exact ⟨_, rfl, .inr ⟨rfl, .of_advance rfl rfl rfl rfl⟩⟩
  | none => exact ⟨_, rfl, .inr ⟨rfl, .of_pc rfl rfl rfl (.inl (by simp))⟩⟩

/-- Every instruction, in every state, answers a next state: its fault or its completion (R5, R140, R178). -/
theorem exec_answers (i : Instr) (s : State) : ∃ t, exec i s = .next t ∧ FaultsOrCompletes i s t := by
  cases i
  case ret => exact exec_ret_answers s
  case callNnn nnn => exact exec_callNnn_answers nnn s
  case jpNnn nnn =>
    refine ⟨_, rfl, .inr ⟨rfl, .of_pc rfl rfl rfl (.inr (.inl ?_))⟩⟩
    simp; omega
  case jpV0Nnn nnn =>
    refine ⟨_, rfl, .inr ⟨rfl, .of_pc rfl rfl rfl (.inr (.inl ?_))⟩⟩
    simp; omega
  case seVxNn | sneVxNn | seVxVy | sneVxVy => exact ⟨_, rfl, .inr ⟨rfl, .skipIf s _⟩⟩
  case skpVx x => exact exec_skpVx_answers x s
  case sknpVx x => exact exec_sknpVx_answers x s
  case drwVxVyN x y n => exact exec_drwVxVyN_answers x y n s
  case ldBVx x => exact storeAtI_answers (by simp [decimalDigits_length]) rfl
  case ldMiVx x => exact storeAtI_answers (by simp [State.regsUpTo_length]) (by simp [faultOf, State.regsUpTo_length])
  case ldVxMi x => exact exec_ldVxMi_answers x s
  case ldVxK x => exact exec_ldVxK_answers x s
  case nop | cls | ldVxNn | addVxNn | ldVxVy | orVxVy | andVxVy | xorVxVy | addVxVy | subVxVy | shrVx | subnVxVy | shlVx |
      ldINnn | rndVxNn | ldVxDt | ldDtVx | ldStVx | addIVx | ldFVx =>
    exact ⟨_, rfl, .inr ⟨rfl, .of_advance rfl rfl rfl rfl⟩⟩

end Sys2Proof.Machine
end

section
/-! What `Step(rand)` can do, said once for the fixed-name step and for every given byte (R60, log 2). -/

namespace Sys2Proof.Machine

/-! ## The step of a Machine that is not halted -/

theorem step_of_halted {s : State} (h : s.fault ≠ none) : step s = .next s := by
  rw [step, State.halted_eq_true.mpr h, if_pos rfl]

theorem step_of_fetchInstr_ok {s : State} {i : Instr} (hf : s.fault = none) (hi : s.fetchInstr = .ok i) :
    step s = exec i s := by
  simp [step, State.halted_eq_false.mpr hf, hi]

theorem step_of_fetchInstr_error {s : State} {r : FaultRecord} (hf : s.fault = none) (hr : s.fetchInstr = .error r) :
    step s = .next (s.raise r) := by
  simp [step, State.halted_eq_false.mpr hf, hr]

theorem stepWith_of_halted {s : State} (h : s.fault ≠ none) (rand : Byte) : s.stepWith rand = s := by
  rw [State.stepWith, State.halted_eq_true.mpr h, if_pos rfl]

theorem stepWith_of_fetchInstr_error {s : State} {r : FaultRecord} (hf : s.fault = none)
    (hr : s.fetchInstr = .error r) (rand : Byte) : s.stepWith rand = s.raise r := by
  simp [State.stepWith, State.halted_eq_false.mpr hf, hr]

theorem stepWith_of_rnd {s : State} {x : Reg} {nn : Byte} (hf : s.fault = none)
    (hi : s.fetchInstr = .ok (.rndVxNn x nn)) (rand : Byte) : s.stepWith rand = rndEffect rand x nn s := by
  simp [State.stepWith, State.halted_eq_false.mpr hf, hi]

theorem stepWith_of_exec {s t : State} {i : Instr} (hf : s.fault = none) (hi : s.fetchInstr = .ok i)
    (hr : ∀ x nn, i ≠ .rndVxNn x nn) (he : exec i s = .next t) (rand : Byte) : s.stepWith rand = t := by
  rw [State.stepWith, State.halted_eq_false.mpr hf, hi, if_neg Bool.false_ne_true]
  split
  next h => cases h
  next h => cases h; exact absurd rfl (hr _ _)
  next h => cases h; rw [he]

/-- Where an instruction is fetched, `Step(rand)` is its execution, but for the byte that CXNN is given (R60, R92). -/
theorem stepWith_of_fetchInstr_ok {s : State} {i : Instr} (hf : s.fault = none) (hi : s.fetchInstr = .ok i)
    (rand : Byte) :
    (∃ x nn, i = .rndVxNn x nn ∧ s.stepWith rand = rndEffect rand x nn s) ∨ exec i s = .next (s.stepWith rand) := by
  by_cases hr : ∃ x nn, i = .rndVxNn x nn
  · obtain ⟨x, nn, rfl⟩ := hr
    exact .inl ⟨x, nn, rfl, stepWith_of_rnd hf hi rand⟩
  · obtain ⟨t, he, -⟩ := exec_answers i s
    rw [stepWith_of_exec hf hi (fun x nn e => hr ⟨x, nn, e⟩) he]
    exact .inr he

/-- Everything `Step(rand)` can do (R60): nothing (halted), the fault of fetch or decode, or the decoded instruction's own
fault or completion. -/
theorem stepWith_cases (s : State) (rand : Byte) :
    (s.fault ≠ none ∧ s.stepWith rand = s) ∨
    (s.fault = none ∧ s.fetchWord = none ∧ s.stepWith rand = s.raise ⟨.fetchOutOfBounds, 0, s.pc⟩) ∨
    (∃ op, s.fault = none ∧ s.fetchWord = some op ∧ s.stepWith rand = s.raise ⟨.decodeError, op, s.pc⟩) ∨
    ∃ op i, s.fault = none ∧ s.fetchWord = some op ∧ decode op = .ok i ∧ FaultsOrCompletes i s (s.stepWith rand) := by
  by_cases hf : s.fault = none
  · rcases s.fetchInstr_cases with ⟨hw, hi⟩ | ⟨op, i, hw, hd, hi⟩ | ⟨op, r, hw, -, hi⟩
    · exact .inr (.inl ⟨hf, hw, stepWith_of_fetchInstr_error hf hi rand⟩)
    · refine .inr (.inr (.inr ⟨op, i, hf, hw, hd, ?_⟩))
      rcases stepWith_of_fetchInstr_ok hf hi rand with ⟨x, nn, rfl, ht⟩ | he
      · exact ht ▸ .inr ⟨rfl, .of_rndEffect rand x nn s⟩
      · obtain ⟨t, he', ht⟩ := exec_answers i s
        rwa [Host.Outcome.next.inj (he.symm.trans he')]
    · exact .inr (.inr (.inl ⟨op, hf, hw, stepWith_of_fetchInstr_error hf hi rand⟩))
  · exact .inl ⟨hf, stepWith_of_halted hf rand⟩

/-- Settles O16: the two steps agree case by case, and CXNN draws the free byte in both. -/
theorem stepIsStepWithTheFreeByte : Obligations.StepIsStepWithTheFreeByte := by
  intro s
  by_cases hf : s.fault = none
  · cases hi : s.fetchInstr with
    | error r => rw [step_of_fetchInstr_error hf hi, stepWith_of_fetchInstr_error hf hi]
    | ok i =>
      rw [step_of_fetchInstr_ok hf hi]
      rcases stepWith_of_fetchInstr_ok hf hi s.nextRand with ⟨x, nn, rfl, ht⟩ | he
      · rw [ht]; rfl
      · exact he
  · rw [step_of_halted hf, stepWith_of_halted hf]

/-- Settles O11: the step is `Step(rand)` at the free byte, which is a function. -/
theorem stepAlwaysAnswersANextState : Obligations.StepAlwaysAnswersANextState :=
  fun s => ⟨_, stepIsStepWithTheFreeByte s⟩

end Sys2Proof.Machine
end

section
/-! The invariants (`Inv`, `FaultRecordTrue`) along every operation and every interleaving. -/

namespace Sys2Proof.Machine

/-! ## Every operation of a halted Machine, and of one that is not -/

theorem tickTimers_of_halted {s : State} (h : s.fault ≠ none) : s.tickTimers = (s, none) := by
  rw [State.tickTimers, State.halted_eq_true.mpr h, if_pos rfl]

theorem load_of_halted {s : State} (h : s.fault ≠ none) (bytes : List Byte) : s.load bytes = s := by
  rw [State.load, State.halted_eq_true.mpr h, if_pos rfl]

theorem setKey_of_halted {s : State} (h : s.fault ≠ none) (k : Fin 16) (pressed : Bool) : s.setKey k pressed = s := by
  rw [State.setKey, State.halted_eq_true.mpr h, if_pos rfl]

/-- While FAULT is set every operation but `Reset` changes nothing and emits nothing (R150). -/
theorem Operation.apply_of_halted {s : State} (h : s.fault ≠ none) {op : Operation} (hop : op ≠ .reset) :
    op.apply s = (s, none) := by
  cases op with
  | reset => contradiction
  | load bytes => rw [Operation.apply, load_of_halted h]
  | step rand => rw [Operation.apply, stepWith_of_halted h]
  | tickTimers => exact tickTimers_of_halted h
  | setKey k pressed => rw [Operation.apply, setKey_of_halted h]

theorem tickTimers_of_running {s : State} (h : s.fault = none) :
    s.tickTimers = ({ s with dt := countDown s.dt, st := countDown s.st },
      if s.st = 1 then some .toneTrigger else none) := by
  rw [State.tickTimers, State.halted_eq_false.mpr h]
  rfl

theorem setKey_of_running {s : State} (h : s.fault = none) (k : Fin 16) (pressed : Bool) :
    s.setKey k pressed = { s with keys := s.keys.set k pressed } := by
  rw [State.setKey, State.halted_eq_false.mpr h]
  rfl

/-- A property of states is kept by every operation when `Reset` gives it and the other four keep it in a Machine that is
not halted; the timers and the keys may take any value. -/
theorem Operation.apply_keeps {P : State → Prop} {s : State} (op : Operation) (h : P s) (hreset : P s.resetOp)
    (hload : s.fault = none → ∀ bytes, P (s.load bytes)) (hstep : s.fault = none → ∀ rand, P (s.stepWith rand))
    (htick : s.fault = none → ∀ dt st, P { s with dt := dt, st := st })
    (hkey : s.fault = none → ∀ keys, P { s with keys := keys }) : P (op.apply s).1 := by
  by_cases hf : s.fault = none
  · cases op with
    | reset => exact hreset
    | load bytes => exact hload hf bytes
    | step rand => exact hstep hf rand
    | tickTimers => rw [Operation.apply, tickTimers_of_running hf]; exact htick hf _ _
    | setKey k pressed => rw [Operation.apply, setKey_of_running hf]; exact hkey hf _
  · by_cases hop : op = .reset
    · exact hop ▸ hreset
    · rwa [Operation.apply_of_halted hf hop]

/-! ## Inv -/

theorem inv_resetWith (font : Vector Byte 80) (draws : Nat) : Inv (State.resetWith font draws) where
  mem_wf := Memory.wf_empty font
  pc_le := (by decide : (0x200 : Word).toNat ≤ 0x10FE)
  stack_le k := by simp [State.resetWith]

/-- `Inv` speaks of memory, `pc` and the stack only. -/
theorem Inv.congr {s t : State} (h : Inv s) (hm : t.mem = s.mem) (hpc : t.pc = s.pc) (hs : t.stack = s.stack) : Inv t where
  mem_wf := hm ▸ h.mem_wf
  pc_le := hpc ▸ h.pc_le
  stack_le := hs ▸ h.stack_le

/-- R13's range paragraph: an instruction fetched inside memory completes with `pc` at most 0x1002, a jump target, or a
stack entry, and pushes at most 0x1000. -/
theorem Completes.inv {s t : State} (h : Completes s t) (hpc : s.pc.toNat ≤ 0xFFE) (hi : Inv s) : Inv t where
  mem_wf := h.mem_wf hi.mem_wf
  pc_le := by
    rcases h.pc_target with hle | hle | ⟨k, hk⟩
    · omega
    · exact hle
    · have := hi.stack_le k
      rw [hk]; omega
  stack_le k := by
    rcases h.stack_entry k with hk | hk
    · exact hk ▸ hi.stack_le k
    · exact hk ▸ (toNat_add_le s.pc 2).trans (Nat.add_le_add_right hpc 2)

theorem stepWith_keeps_inv {s : State} (h : Inv s) (rand : Byte) : Inv (s.stepWith rand) := by
  rcases stepWith_cases s rand with ⟨-, ht⟩ | ⟨-, -, ht⟩ | ⟨op, -, -, ht⟩ | ⟨op, i, -, hw, -, ⟨c, -, ht⟩ | ⟨-, hc⟩⟩
  · rwa [ht]
  · exact ht ▸ h.congr rfl rfl rfl
  · exact ht ▸ h.congr rfl rfl rfl
  · exact ht ▸ h.congr rfl rfl rfl
  · exact hc.inv (State.pc_le_of_fetchWord hw) h

theorem load_keeps_inv {s : State} (hf : s.fault = none) (h : Inv s) (bytes : List Byte) : Inv (s.load bytes) := by
  rcases State.load_cases hf bytes with ⟨hb, ht⟩ | ⟨-, ht⟩
  · rw [ht]
    exact { h with mem_wf := Memory.wf_writeBytes h.mem_wf (.inr (by simp only [Config.memSize]; omega)) }
  · exact ht ▸ h.congr rfl rfl rfl

/-- Settles O57, operation by operation: a step keeps R13's ranges, a load keeps memory canonical, and timers and keys are
no part of `Inv`. -/
theorem operationsKeepInv : Obligations.OperationsKeepInv := fun op _ h =>
  op.apply_keeps h
    (hreset := inv_resetWith _ _)
    (hload := fun hf => load_keeps_inv hf h)
    (hstep := fun _ => stepWith_keeps_inv h)
    (htick := fun _ _ _ => h.congr rfl rfl rfl)
    (hkey := fun _ _ => h.congr rfl rfl rfl)

/-! ## FaultRecordTrue -/

theorem faultRecordTrue_of_none {s : State} (h : s.fault = none) : FaultRecordTrue s := by
  rw [FaultRecordTrue, h]; trivial

/-- The record of a fault raised after the fetch of `op`: taking the fault keeps `pc` and memory, so the same word is
still fetched (R150). -/
theorem faultRecordTrue_raise {s : State} {c : FaultCause} {op : Word} (hw : s.fetchWord = some op)
    (hload : c ≠ .loadTooLarge) (hfetch : c ≠ .fetchOutOfBounds) : FaultRecordTrue (s.raise ⟨c, op, s.pc⟩) := by
  cases c
  case loadTooLarge => contradiction
  case fetchOutOfBounds => contradiction
  all_goals exact ⟨rfl, hw⟩

/-- No instruction raises the faults of `Load` and of the fetch (R140). -/
theorem faultOf_ne {s : State} {i : Instr} {c : FaultCause} (h : faultOf s i = some c) :
    c ≠ .loadTooLarge ∧ c ≠ .fetchOutOfBounds := by
  constructor <;> (rintro rfl; cases i <;> simp [faultOf] at h)

theorem stepWith_keeps_faultRecordTrue {s : State} (h : FaultRecordTrue s) (rand : Byte) :
    FaultRecordTrue (s.stepWith rand) := by
  rcases stepWith_cases s rand with
    ⟨-, ht⟩ | ⟨-, hw, ht⟩ | ⟨op, -, hw, ht⟩ | ⟨op, i, hf, hw, hd, ⟨c, hc, ht⟩ | ⟨-, hc⟩⟩
  · rwa [ht]
  · exact ht ▸ ⟨rfl, rfl, hw⟩
  · exact ht ▸ faultRecordTrue_raise hw nofun nofun
  · obtain rfl := encode_of_decode hd
    obtain ⟨hload, hfetch⟩ := faultOf_ne hc
    exact ht ▸ faultRecordTrue_raise hw hload hfetch
  · exact faultRecordTrue_of_none (hc.fault_eq.trans hf)

theorem load_keeps_faultRecordTrue {s : State} (hf : s.fault = none) (bytes : List Byte) :
    FaultRecordTrue (s.load bytes) := by
  rcases State.load_cases hf bytes with ⟨-, ht⟩ | ⟨-, ht⟩
  · exact ht ▸ faultRecordTrue_of_none hf
  · exact ht ▸ ⟨rfl, rfl⟩

theorem operation_keeps_faultRecordTrue (op : Operation) {s : State} (h : FaultRecordTrue s) :
    FaultRecordTrue (op.apply s).1 :=
  op.apply_keeps h
    (hreset := faultRecordTrue_of_none rfl)
    (hload := load_keeps_faultRecordTrue)
    (hstep := fun _ => stepWith_keeps_faultRecordTrue h)
    (htick := fun hf _ _ => faultRecordTrue_of_none hf)
    (hkey := fun hf _ => faultRecordTrue_of_none hf)

/-! ## Interleavings -/

/-- What every operation keeps holds after every interleaving (R4). -/
theorem State.after_keeps {P : State → Prop} (hP : ∀ op s, P s → P (Operation.apply op s).1) {s : State} (h : P s)
    (ops : List Operation) : P (s.after ops) := by
  induction ops generalizing s with
  | nil => exact h
  | cons op rest ih => exact ih (hP op s h)

/-- Settles O59: both invariants hold at reset and every operation keeps them. -/
theorem reachableStatesAreGood : Obligations.ReachableStatesAreGood := by
  rintro _ ⟨font, draws, ops, rfl⟩
  exact ⟨State.after_keeps operationsKeepInv (inv_resetWith font draws) ops,
    State.after_keeps (fun op _ => operation_keeps_faultRecordTrue op) (faultRecordTrue_of_none rfl) ops⟩

end Sys2Proof.Machine
end

section
/-! The flag writers (spec/10_state.md R12) and `SetKey` (spec/60_exceptions.md R158). -/

namespace Sys2Proof.Machine

/-- A draw that completes ends with the collision flag in VF (R111). -/
theorem getV_flag_of_draw {x y : Reg} {n : Fin 16} {s t : State} (h : exec (.drwVxVyN x y n) s = .next t)
    (hf : faultOf s (.drwVxVyN x y n) = none) : ∃ b, t.getV 15 = flagByte b := by
  cases hl : s.mem.loadBytes s.baseAddr n.val with
  | some rows =>
    simp only [exec, execDrwVxVyN, hl, Host.Outcome.next.injEq] at h
    exact ⟨_, h ▸ State.getV_setV_self _ 15 _⟩
  | none =>
    have hb := Memory.loadBytes_eq_none.mp hl
    simp only [State.baseAddr] at hb
    simp [faultOf] at hf
    omega

/-- Settles O15: each of the six ends with some `flagByte` in VF, whatever X is, since VF is written last (R8). -/
theorem flagIsZeroOrOne : Obligations.FlagIsZeroOrOne := by
  intro i x y n s t hi he hf
  suffices h : ∃ b, t.getV 15 = flagByte b by
    obtain ⟨b, hb⟩ := h
    exact hb ▸ flagByte_cases b
  simp only [List.mem_cons, List.not_mem_nil, or_false] at hi
  rcases hi with rfl | rfl | rfl | rfl | rfl | rfl
  on_goal 6 => exact getV_flag_of_draw he hf
  all_goals
    obtain rfl := Host.Outcome.next.inj he
    exact ⟨_, State.getV_setV_self _ 15 _⟩

/-- A fetched SKP of a register that names key `k` skips when that key is down (R120). -/
theorem step_skpVx {s : State} {x : Reg} {k : Fin 16} (hf : s.fault = none) (hi : s.fetchInstr = .ok (.skpVx x))
    (hx : (s.getV x).toNat = k.val) : step s = .next (s.advance.skipIf s.keys[k]) := by
  rw [step_of_fetchInstr_ok hf hi]
  simp only [exec, execSkpVx, keyIndex_eq_some.mpr hx]

/-- Settles O52: the next step fetches the same instruction and tests the key just set. -/
theorem setKeyIsSeenByTheNextStep : Obligations.SetKeyIsSeenByTheNextStep := by
  intro s k pressed hf
  rw [setKey_of_running hf]
  have hk : (s.keys.set k pressed)[k] = pressed := by simp
  refine ⟨hk, fun j hj => ?_, ?_, fun x hi hx => ?_⟩
  · have : k.val ≠ j.val := fun e => hj (Fin.ext e.symm)
    simp [this]
  · constructor <;> simp
  · refine ⟨_, step_skpVx (s := { s with keys := s.keys.set k pressed }) hf hi hx, ?_, by simp⟩
    cases pressed <;> simp [BitVec.add_assoc]

end Sys2Proof.Machine
end

section
/-! The state family (spec/10_state.md R13, R20, R22): the invariants along a step, and the values after `Reset`. -/

namespace Sys2Proof.Machine

/-! ## The invariants -/

/-- Settles O56: the fixed-name step is `Step(rand)` at the free byte, which keeps R13's ranges. -/
theorem stepKeepsInv : Obligations.StepKeepsInv := by
  intro s t h he
  obtain rfl := Host.Outcome.next.inj ((stepIsStepWithTheFreeByte s).symm.trans he)
  exact stepWith_keeps_inv h s.nextRand

/-- Settles O58: a record is latched only with the `pc` kept and the word fetched there, and while it is latched only
`Reset` changes the state. -/
theorem operationsKeepFaultRecordTrue : Obligations.OperationsKeepFaultRecordTrue :=
  fun op _ => operation_keeps_faultRecordTrue op

/-- Settles O55: reset is the reset state of the default FONT. -/
theorem invHoldsAfterReset : Obligations.InvHoldsAfterReset :=
  ⟨inv_resetWith defaultFont 0, inv_resetWith⟩

/-! ## Reset -/

/-- Memory with nothing listed reads FONT at 0 to 79 and 0 elsewhere (R22, R32). -/
theorem Memory.readByte_nil (font : Vector Byte 80) (a : Nat) :
    (Memory.mk font []).readByte a = if h : a < 80 then font[a] else 0 := rfl

/-- Every cell of the cleared display is off (R18, R110). -/
theorem Display.lit_clear (p : Pixel) : Display.lit Display.clear p = false := by
  simp [Display.lit, Display.clear]

/-- Settles O53, part by part of R22. -/
theorem resetGivesTheListedState : Obligations.ResetGivesTheListedState := by
  rintro s _ rfl
  refine ⟨rfl, fun r => ?_, rfl, fun k => ?_, rfl, rfl, rfl, fun k => ?_, fun p => ?_, rfl, fun k => ?_,
    fun a ha _ => ?_, rfl, rfl⟩
  · exact Vector.getElem_replicate r.isLt
  · exact Vector.getElem_replicate k.isLt
  · exact Vector.getElem_replicate k.isLt
  · exact Display.lit_clear p
  · exact (Memory.readByte_nil s.mem.font k).trans (dif_pos k.isLt)
  · exact (Memory.readByte_nil s.mem.font a).trans (dif_neg (Nat.not_lt.mpr ha))

end Sys2Proof.Machine
end

section
/-! What instructions change (spec/10_state.md R11, R15, R19, R23): the stack instructions, and the frame of all 35. -/

namespace Sys2Proof.Machine

/-! ## The stack instructions (R15, R62, R64) -/

/-- RET with an entry on the stack takes `pc` from it and counts it off. -/
theorem exec_ret_of_sp {s : State} {k : Fin 16} (h : s.sp.val = k.val + 1) :
    exec .ret s = .next { s with pc := s.stack[k], sp := k.castSucc } := by
  simp only [exec, execRet, State.popPc_eq_some (s := s.advance) k h]
  rfl

/-- CALL with room on the stack stores the advanced `pc` in the entry `sp`, counts it, and jumps. -/
theorem exec_callNnn_of_sp {s : State} (h : s.sp.val < 16) (nnn : Addr12) :
    exec (.callNnn nnn) s = .next
      { s with pc := zext16 nnn, stack := s.stack.set s.sp.val (s.pc + 2), sp := ⟨s.sp.val + 1, by omega⟩ } := by
  simp only [exec, execCallNnn, State.push_eq_some (s := s.advance) h]
  rfl

/-- Settles O22: the popped entry stays in its slot (D15), so the stack is in the frame. -/
theorem returnPopsTheNewestAddress : Obligations.ReturnPopsTheNewestAddress := fun s _ h =>
  ⟨_, exec_ret_of_sp h, rfl, rfl, by constructor <;> simp⟩

/-- Settles O21: the slot written is the entry `sp` (D15). -/
theorem callPushesTheReturnAddress : Obligations.CallPushesTheReturnAddress := by
  intro nnn s h
  refine ⟨_, exec_callNnn_of_sp h nnn, ?_, rfl, fun k => ?_, by constructor <;> simp⟩
  · simp; omega
  · simp [Vector.getElem_set, eq_comm]

/-- Settles O24: the RET pops the entry that the CALL pushed. -/
theorem callThenReturnRestoresPc : Obligations.CallThenReturnRestoresPc := by
  intro nnn s t h he
  obtain rfl := Host.Outcome.next.inj ((exec_callNnn_of_sp h nnn).symm.trans he)
  refine ⟨_, exec_ret_of_sp (k := ⟨s.sp.val, h⟩) rfl, ?_, rfl, fun k hk => ?_,
    by constructor <;> simp⟩
  · simp
  · simp [hk.symm]

/-! ## The frame of every instruction -/

/-- The frame of an instruction that has completed: the parts (R23), registers (R11) and bytes (R19) its row lists. -/
structure ChangesOnlyItsRow (i : Instr) (s t : State) : Prop where
  parts : UnchangedExcept (.pc :: writes i) s t
  regs : ∀ r, ¬ writesReg r i → t.getV r = s.getV r
  bytes : ∀ a, ¬ writesByte s a i → t.mem.readByte a = s.mem.readByte a

namespace ChangesOnlyItsRow

/-- An instruction that lists V but not memory keeps every byte. -/
theorem of_regs {i : Instr} {s t : State} (h : UnchangedExcept (.pc :: writes i) s t)
    (hm : .mem ∉ .pc :: writes i) (hr : ∀ r, ¬ writesReg r i → t.getV r = s.getV r) : ChangesOnlyItsRow i s t :=
  ⟨h, hr, fun a _ => h.bytes hm a⟩

/-- An instruction that lists neither V nor memory keeps every register and byte. -/
theorem of_parts {i : Instr} {s t : State} (h : UnchangedExcept (.pc :: writes i) s t)
    (hv : .v ∉ .pc :: writes i) (hm : .mem ∉ .pc :: writes i) : ChangesOnlyItsRow i s t :=
  .of_regs h hm fun r _ => by rw [State.getV, h.v hv, State.getV]

theorem skipIf {i : Instr} (hw : writes i = []) (s : State) (taken : Bool) :
    ChangesOnlyItsRow i s (s.advance.skipIf taken) := by
  refine .of_parts ?_ (by simp [hw]) (by simp [hw])
  constructor <;> simp [hw]

/-- An instruction whose one register is `x`. -/
theorem setV {i : Instr} {x : Reg} (hw : writes i = [.v]) (hr : ∀ r, ¬ writesReg r i → r ≠ x) (s : State)
    (b : Byte) : ChangesOnlyItsRow i s (s.advance.setV x b) := by
  refine .of_regs ?_ (by simp [hw]) fun r h => State.getV_setV_of_ne s.advance b (hr r h)
  constructor <;> simp [hw]

/-- An instruction that writes `x` and the flag (R12). -/
theorem setVThenFlag {i : Instr} {x : Reg} (hw : writes i = [.v]) (hr : ∀ r, ¬ writesReg r i → ¬ (r = x ∨ r = 15))
    (s : State) (b c : Byte) : ChangesOnlyItsRow i s (s.advance.setVThenFlag x b c) := by
  refine .of_regs ?_ (by simp [hw]) fun r h => ?_
  · constructor <;> simp [hw]
  · obtain ⟨hx, hf⟩ := not_or.mp (hr r h)
    rw [State.getV_setVThenFlag, if_neg hf, if_neg hx, State.getV_advance]

/-- A store of the bytes at `EA(0)` to `EA(n)` that is made (R106). -/
theorem storeAtI {i : Instr} {bytes : List Byte} {n : Nat} {s t : State} (hw : writes i = [.mem])
    (hlen : bytes.length = n + 1) (hb : ∀ a, ¬ writesByte s a i → ¬ (s.baseAddr ≤ a ∧ a ≤ s.baseAddr + n))
    (hfit : s.baseAddr + n ≤ 0xFFF) (he : storeAtI i bytes s = .next t) : ChangesOnlyItsRow i s t := by
  simp only [State.baseAddr] at hb hfit
  rcases storeAtI_cases i bytes s with ⟨-, he'⟩ | ⟨hout, -⟩
  · obtain rfl := Host.Outcome.next.inj (he'.symm.trans he)
    refine ⟨?_, fun _ _ => rfl, fun a ha => Memory.readByte_writeBytes_of_outside s.mem ?_⟩
    · constructor <;> simp [hw]
    · have := hb a ha
      omega
  · omega

end ChangesOnlyItsRow

/-- An instruction guarded by a checked operation `o` whose failure is the condition of R140's table: where it does not
fault, the operation gives something. -/
theorem exists_of_faultOf_eq_none {α : Type} {i : Instr} {s : State} {c : FaultCause} {P : Prop} [Decidable P]
    {o : Option α} (hP : o = none ↔ P) (hf : faultOf s i = if P then some c else none) (h : faultOf s i = none) :
    ∃ a, o = some a := by
  refine Option.ne_none_iff_exists'.mp fun ho => ?_
  rw [hf, if_pos (hP.mp ho)] at h
  cases h

theorem exec_ret_changesOnlyItsRow {s t : State} (he : exec .ret s = .next t) (hf : faultOf s .ret = none) :
    ChangesOnlyItsRow .ret s t := by
  have hsp : s.sp.val ≠ 0 := by simpa [faultOf] using hf
  obtain rfl := Host.Outcome.next.inj
    ((exec_ret_of_sp (k := ⟨s.sp.val - 1, by omega⟩) (by simp; omega)).symm.trans he)
  refine .of_parts ?_ nofun nofun
  constructor <;> simp [writes]

theorem exec_callNnn_changesOnlyItsRow {nnn : Addr12} {s t : State} (he : exec (.callNnn nnn) s = .next t)
    (hf : faultOf s (.callNnn nnn) = none) : ChangesOnlyItsRow (.callNnn nnn) s t := by
  have hsp : s.sp.val ≠ 16 := by simpa [faultOf] using hf
  obtain rfl := Host.Outcome.next.inj ((exec_callNnn_of_sp (by omega) nnn).symm.trans he)
  refine .of_parts ?_ nofun nofun
  constructor <;> simp [writes]

theorem exec_skpVx_changesOnlyItsRow {x : Reg} {s t : State} (he : exec (.skpVx x) s = .next t)
    (hf : faultOf s (.skpVx x) = none) : ChangesOnlyItsRow (.skpVx x) s t := by
  obtain ⟨k, hk⟩ := exists_of_faultOf_eq_none keyIndex_eq_none rfl hf
  simp only [exec, execSkpVx, hk] at he
  exact Host.Outcome.next.inj he ▸ .skipIf rfl s _

theorem exec_sknpVx_changesOnlyItsRow {x : Reg} {s t : State} (he : exec (.sknpVx x) s = .next t)
    (hf : faultOf s (.sknpVx x) = none) : ChangesOnlyItsRow (.sknpVx x) s t := by
  obtain ⟨k, hk⟩ := exists_of_faultOf_eq_none keyIndex_eq_none rfl hf
  simp only [exec, execSknpVx, hk] at he
  exact Host.Outcome.next.inj he ▸ .skipIf rfl s _

/-- A draw changes the display and, of the registers, VF (R111). -/
theorem exec_drwVxVyN_changesOnlyItsRow {x y : Reg} {n : Fin 16} {s t : State}
    (he : exec (.drwVxVyN x y n) s = .next t) (hf : faultOf s (.drwVxVyN x y n) = none) :
    ChangesOnlyItsRow (.drwVxVyN x y n) s t := by
  obtain ⟨rows, hrows⟩ := exists_of_faultOf_eq_none (o := s.mem.loadBytes s.baseAddr n.val)
    (by rw [Memory.loadBytes_eq_none, State.baseAddr]; omega) rfl hf
  simp only [exec, execDrwVxVyN, hrows] at he
  obtain rfl := Host.Outcome.next.inj he
  refine .of_regs ?_ nofun fun r h => State.getV_setV_of_ne _ _ h
  constructor <;> simp [writes]

/-- FX65 loads no register above `x` (R105). -/
theorem exec_ldVxMi_changesOnlyItsRow {x : Reg} {s t : State} (he : exec (.ldVxMi x) s = .next t)
    (hf : faultOf s (.ldVxMi x) = none) : ChangesOnlyItsRow (.ldVxMi x) s t := by
  obtain ⟨bytes, hload⟩ := exists_of_faultOf_eq_none (o := s.mem.loadBytes s.baseAddr (x.val + 1))
    (by rw [Memory.loadBytes_eq_none, State.baseAddr]; omega) rfl hf
  simp only [exec, execLdVxMi, hload] at he
  obtain rfl := Host.Outcome.next.inj he
  obtain ⟨-, hlen, -⟩ := Memory.loadBytes_spec hload
  refine .of_regs ?_ nofun fun r h => ?_
  · constructor <;> simp [writes]
  · have hr : bytes.length ≤ r.val := hlen ▸ Fin.lt_def.mp (not_le.mp h)
    rw [State.getV_loadRegs, List.getD_eq_default _ _ hr, State.getV_advance]

theorem exec_ldVxK_changesOnlyItsRow {x : Reg} {s t : State} (he : exec (.ldVxK x) s = .next t) :
    ChangesOnlyItsRow (.ldVxK x) s t := by
  simp only [exec, execLdVxK] at he
  split at he
  · exact Host.Outcome.next.inj he ▸ .setV rfl (fun _ => id) s _
  · obtain rfl := Host.Outcome.next.inj he
    refine .of_regs ?_ nofun fun _ _ => rfl
    constructor <;> simp [writes]

/-- The frame of every instruction, by the way it completes. -/
theorem exec_changesOnlyItsRow (i : Instr) {s t : State} (he : exec i s = .next t) (hf : faultOf s i = none) :
    ChangesOnlyItsRow i s t := by
  cases i
  case ret => exact exec_ret_changesOnlyItsRow he hf
  case callNnn => exact exec_callNnn_changesOnlyItsRow he hf
  case skpVx => exact exec_skpVx_changesOnlyItsRow he hf
  case sknpVx => exact exec_sknpVx_changesOnlyItsRow he hf
  case drwVxVyN => exact exec_drwVxVyN_changesOnlyItsRow he hf
  case ldVxMi => exact exec_ldVxMi_changesOnlyItsRow he hf
  case ldVxK => exact exec_ldVxK_changesOnlyItsRow he
  case ldBVx =>
    exact .storeAtI rfl (decimalDigits_length _) (fun _ => id) (by simpa [faultOf, State.baseAddr] using hf) he
  case ldMiVx =>
    exact .storeAtI rfl (s.regsUpTo_length _) (fun _ => id) (by simpa [faultOf, State.baseAddr] using hf) he
  all_goals obtain rfl := Host.Outcome.next.inj he
  case seVxNn | sneVxNn | seVxVy | sneVxVy => exact .skipIf rfl s _
  case ldVxNn | addVxNn | ldVxVy | orVxVy | andVxVy | xorVxVy | ldVxDt => exact .setV rfl (fun _ => id) s _
  case addVxVy | subVxVy | shrVx | subnVxVy | shlVx => exact .setVThenFlag rfl (fun _ => id) s _ _
  case rndVxNn =>
    refine .of_regs ?_ nofun fun r h => State.getV_setV_of_ne s.advance _ h
    constructor <;> simp [writes, rndEffect]
  case nop | cls | jpNnn | jpV0Nnn | ldINnn | addIVx | ldFVx | ldDtVx | ldStVx =>
    refine .of_parts ?_ nofun nofun
    constructor <;> simp [writes]

/-- Settles O14: each instruction completes in one of few ways, and each way has its frame. -/
theorem instructionsChangeOnlyWhatTheyList : Obligations.InstructionsChangeOnlyWhatTheyList := by
  intro i s t he hf
  obtain ⟨hparts, hregs, hbytes⟩ := exec_changesOnlyItsRow i he hf
  exact ⟨hparts, hregs, hbytes⟩

end Sys2Proof.Machine
end

section
/-! Decoding what the encoder writes (spec/30_encoding.md R45 to R49), and the decoder of bytes (R33). -/

namespace Sys2Proof

/-- Each format of R47 gives back its class, its sub-opcode and its operand fields. -/
theorem decode_encode (i : Instr) : decode (encode i) = .ok i := by
  cases i
  case nop | cls | ret => rfl
  case jpNnn | callNnn | ldINnn | jpV0Nnn => simp [encode, decode, class_encodeA, fieldNNN_encodeA]
  case seVxNn | sneVxNn | ldVxNn | addVxNn | rndVxNn =>
    simp [encode, decode, class_encodeXB, fieldX_encodeXB, fieldNN_encodeXB]
  case seVxVy | sneVxVy | drwVxVyN =>
    simp [encode, decode, class_encodeXYN, low_encodeXYN, fieldX_encodeXYN, fieldY_encodeXYN, fieldN_encodeXYN]
  case ldVxVy | orVxVy | andVxVy | xorVxVy | addVxVy | subVxVy | shrVx | subnVxVy | shlVx =>
    simp [encode, decode, decodeClass8, class_encodeXYN, low_encodeXYN, fieldX_encodeXYN, fieldY_encodeXYN]
  case skpVx | sknpVx => simp [encode, decode, decodeClassE, class_encodeXS, low_encodeXS, fieldX_encodeXS]
  case ldVxDt | ldVxK | ldDtVx | ldStVx | addIVx | ldFVx | ldBVx | ldMiVx | ldVxMi =>
    simp [encode, decode, decodeClassF, class_encodeXS, low_encodeXS, fieldX_encodeXS]

/-- R48, R49: a word decodes to `i` exactly when it is the word of `i`. -/
theorem decode_eq_ok_iff {op : Word} {i : Instr} : decode op = .ok i ↔ encode i = op :=
  ⟨encode_of_decode, fun h => h ▸ decode_encode i⟩

theorem decodeBytes_eq_ok_iff {hi lo : Byte} {rest : List Byte} {i : Instr} :
    decodeBytes (hi :: lo :: rest) = .ok (i, rest) ↔ decode (wordOfBytes hi lo) = .ok i := by
  cases h : decode (wordOfBytes hi lo) <;> simp [decodeBytes, h]

/-- Settles O5: the first two bytes are the word, high byte first, and a word decodes to `i` exactly when `i` encodes to
it. -/
theorem decodeBytesTakesTwoBytesHighFirst : Obligations.DecodeBytesTakesTwoBytesHighFirst := by
  intro hi lo rest i
  rw [decodeBytes_eq_ok_iff, decode_eq_ok_iff, ← BitVec.toNat_inj, wordOfBytes_toNat]

end Sys2Proof
end

section
/-! Memory by itself (spec/20_memory.md R34, R41; log 4). -/

namespace Sys2Proof.Machine

/-- Settles O41: the address written, and any other. -/
theorem readAfterWrite : Obligations.ReadAfterWrite := by
  intro m a a' b
  split
  next h => exact h ▸ m.readByte_writeByte_self a b
  next h => exact m.readByte_writeByte_of_ne b h

/-- What the cells of a canonical memory list: the bytes that differ from the reset contents. -/
theorem Memory.mem_cells_iff {m : Memory} (h : m.wf) {c : Host.Cell} :
    c ∈ m.cells ↔ m.readByte c.1 = c.2 ∧ c.2 ≠ m.unlisted c.1 := by
  refine ⟨fun hc => ⟨cellsFind_of_mem h.1 hc, (h.2 c hc).2⟩, fun ⟨hread, hne⟩ => ?_⟩
  by_cases hlisted : ∃ d ∈ m.cells, d.1 = c.1
  · obtain ⟨d, hd, ha⟩ := hlisted
    have hb : m.readByte d.1 = d.2 := cellsFind_of_mem h.1 hd
    rwa [← Prod.ext ha (hb.symm.trans (ha ▸ hread))]
  · exact absurd (hread.symm.trans (cellsFind_of_not_listed fun d hd ha => hlisted ⟨d, hd, ha⟩)) hne

/-- A cell of a canonical memory is a cell of every canonical memory that reads like it. -/
theorem Memory.mem_cells_of_reads_alike {m m' : Memory} (h : m.wf) (h' : m'.wf) (hfont : m.font = m'.font)
    (hread : ∀ a, a < 4096 → m.readByte a = m'.readByte a) {c : Host.Cell} (hc : c ∈ m.cells) : c ∈ m'.cells := by
  obtain ⟨hb, hne⟩ := (Memory.mem_cells_iff h).mp hc
  have hu : m.unlisted c.1 = m'.unlisted c.1 := by rw [Memory.unlisted, hfont, Memory.unlisted]
  exact (Memory.mem_cells_iff h').mpr ⟨hread c.1 (h.2 c hc).1 ▸ hb, hu ▸ hne⟩

/-- Cells of strictly rising addresses are determined by which cells they are. -/
theorem cells_eq_of_mem_iff {cs cs' : List Host.Cell} (hs : cs.Pairwise fun c d => c.1 < d.1)
    (hs' : cs'.Pairwise fun c d => c.1 < d.1) (h : ∀ c, c ∈ cs ↔ c ∈ cs') : cs = cs' := by
  have nodup : ∀ {ds : List Host.Cell}, (ds.Pairwise fun c d => c.1 < d.1) → ds.Nodup := fun hd =>
    hd.imp fun hlt e => hlt.ne (congrArg Prod.fst e)
  exact ((List.perm_ext_iff_of_nodup (nodup hs) (nodup hs')).mpr h).eq_of_pairwise
    (fun _ _ _ _ hlt hgt => absurd hlt hgt.asymm) hs hs'

/-- Settles O42: both memories list the same cells, and in canonical form the cells have one order. -/
theorem canonicalMemoriesThatReadAlikeAreEqual : Obligations.CanonicalMemoriesThatReadAlikeAreEqual := by
  intro m m' h h' hfont hread
  have hmem : ∀ c, c ∈ m.cells ↔ c ∈ m'.cells := fun c =>
    ⟨Memory.mem_cells_of_reads_alike h h' hfont hread,
      Memory.mem_cells_of_reads_alike h' h hfont.symm fun a ha => (hread a ha).symm⟩
  have hcells : m.cells = m'.cells := cells_eq_of_mem_iff h.1 h'.1 hmem
  cases m; cases m'; congr

end Sys2Proof.Machine
end

section
/-! The stores and the load through `I` (spec/43_index_memory.md R103 to R106; spec/20_memory.md R36, R40, R41). -/

namespace Sys2Proof.Machine

/-! ## An access past the end (R36, R140) -/

/-- Where R140's table lists a fault for it, an instruction takes that fault and nothing else (R150). -/
theorem exec_of_faultOf_eq_some {i : Instr} {s : State} {c : FaultCause} (h : faultOf s i = some c) :
    exec i s = .next (s.raiseBy c i) := by
  obtain ⟨t, he, ⟨c', hc, rfl⟩ | ⟨hnone, -⟩⟩ := exec_answers i s
  · rw [he, Option.some.inj (h.symm.trans hc)]
  · cases h.symm.trans hnone

/-- Settles O38: the condition of each clause is the one that R140's table lists. -/
theorem accessPastTheEndLatchesMemOutOfBounds : Obligations.AccessPastTheEndLatchesMemOutOfBounds := by
  intro x y n s
  exact ⟨fun h => exec_of_faultOf_eq_some (if_pos h), fun h => exec_of_faultOf_eq_some (if_pos h),
    fun h => exec_of_faultOf_eq_some (if_pos h), fun hn h => exec_of_faultOf_eq_some (if_pos ⟨hn, h⟩)⟩

/-! ## The stores -/

/-- `t` is `s` after a completed store of `bytes` at `EA(0)`, `EA(1)`, ... (R106). -/
structure StoredAtI (bytes : List Byte) (s t : State) : Prop where
  read : ∀ k (hk : k < bytes.length), t.mem.readByte (s.i.toNat + k) = bytes[k]
  outside : ∀ a, a < s.i.toNat ∨ s.i.toNat + bytes.length ≤ a → t.mem.readByte a = s.mem.readByte a
  pc : t.pc = s.pc + 2
  frame : UnchangedExcept [.pc, .mem] s t

/-- A store of which every byte is in memory is made (R106). -/
theorem storeAtI_of_fits {i : Instr} {bytes : List Byte} {s : State} (h : s.i.toNat + bytes.length ≤ 4096) :
    ∃ t, storeAtI i bytes s = .next t ∧ StoredAtI bytes s t := by
  rcases storeAtI_cases i bytes s with ⟨-, he⟩ | ⟨⟨-, hout⟩, -⟩
  · refine ⟨_, he, fun k => Memory.readByte_writeBytes s.mem, fun a => Memory.readByte_writeBytes_of_outside s.mem,
      rfl, ?_⟩
    constructor <;> simp
  · omega

/-- The bytes of a stored decimal form: hundreds, tens, ones (R103). -/
theorem StoredAtI.read_digits {v : Byte} {s t : State} (h : StoredAtI (decimalDigits v) s t) :
    (t.mem.readByte s.i.toNat).toNat = v.toNat / 100 ∧
    (t.mem.readByte (s.i.toNat + 1)).toNat = v.toNat / 10 % 10 ∧
    (t.mem.readByte (s.i.toNat + 2)).toNat = v.toNat % 10 := by
  have hlen := decimalDigits_length v
  refine ⟨(congrArg BitVec.toNat (h.read 0 (by omega))).trans ?_, (congrArg BitVec.toNat (h.read 1 (by omega))).trans ?_,
    (congrArg BitVec.toNat (h.read 2 (by omega))).trans ?_⟩
  all_goals
    simp only [decimalDigits, List.getElem_cons_zero, List.getElem_cons_succ, BitVec.toNat_ofNat]
    omega

/-- Settles O35: FX33 stores the decimal form of `V[X]` at `I`, and a store changes its own bytes only. -/
theorem decimalDigitsAreStoredAtI : Obligations.DecimalDigitsAreStoredAtI := by
  intro x s h
  have hlen := decimalDigits_length (s.getV x)
  obtain ⟨t, he, ht⟩ := storeAtI_of_fits (i := .ldBVx x) (bytes := decimalDigits (s.getV x)) (s := s) (by omega)
  obtain ⟨hundreds, tens, ones⟩ := ht.read_digits
  exact ⟨t, he, hundreds, tens, ones, fun a ha => ht.outside a (by omega), ht.pc, ht.frame⟩

/-- FX55 in memory stores the registers up to `X` (R104). -/
theorem exec_ldMiVx_of_fits {x : Reg} {s : State} (h : s.i.toNat + x.val ≤ 0xFFF) :
    ∃ t, exec (.ldMiVx x) s = .next t ∧ StoredAtI (s.regsUpTo x) s t :=
  storeAtI_of_fits (by rw [State.regsUpTo_length]; omega)

/-- The byte stored at `EA(k)` is `V[k]` (R104). -/
theorem StoredAtI.read_reg {x k : Reg} {s t : State} (h : StoredAtI (s.regsUpTo x) s t) (hk : k ≤ x) :
    t.mem.readByte (s.i.toNat + k.val) = s.getV k := by
  have hlen : k.val < (s.regsUpTo x).length := by
    rw [State.regsUpTo_length]
    exact Nat.lt_succ_of_le hk
  rw [h.read k.val hlen, State.regsUpTo_get]

/-- Settles O36: FX55 stores the registers up to `X` at `I`, and a store changes its own bytes only. -/
theorem registersAreStoredAtI : Obligations.RegistersAreStoredAtI := by
  intro x s h
  obtain ⟨t, he, ht⟩ := exec_ldMiVx_of_fits h
  refine ⟨t, he, fun k => ht.read_reg, fun a ha => ht.outside a ?_, ht.pc, ht.frame⟩
  rw [State.regsUpTo_length]; omega

/-! ## What a store is read back by -/

/-- FX65 in memory loads `V[k]` from `EA(k)` for `k = 0..X` and leaves the registers above (R105). -/
theorem exec_ldVxMi_of_fits {x : Reg} {s : State} (h : s.i.toNat + x.val ≤ 0xFFF) :
    ∃ bytes, exec (.ldVxMi x) s = .next (s.advance.loadRegs bytes) ∧
      ∀ k : Reg, (s.advance.loadRegs bytes).getV k =
        if k ≤ x then s.mem.readByte (s.i.toNat + k.val) else s.getV k := by
  obtain ⟨bytes, hload⟩ : ∃ bytes, s.mem.loadBytes s.baseAddr (x.val + 1) = some bytes :=
    ⟨_, Memory.loadBytes_eq_some (by rw [State.baseAddr]; omega)⟩
  obtain ⟨-, hlen, hread⟩ := Memory.loadBytes_spec hload
  refine ⟨bytes, by simp only [exec, execLdVxMi, hload], fun k => ?_⟩
  rw [State.getV_loadRegs]
  split
  next hk =>
    have hk : k.val < bytes.length := hlen ▸ Nat.lt_succ_of_le hk
    rw [List.getD_eq_getElem _ _ hk, hread k.val hk]; rfl
  next hk =>
    have hk : bytes.length ≤ k.val := hlen ▸ Fin.lt_def.mp (not_le.mp hk)
    rw [List.getD_eq_default _ _ hk, State.getV_advance]

/-- Settles O39: the store leaves `I` (R106), so the load reads the bytes just stored. -/
theorem storeThenLoadGivesTheRegistersBack : Obligations.StoreThenLoadGivesTheRegistersBack := by
  intro x s t v h he
  obtain ⟨t', he', ht⟩ := exec_ldMiVx_of_fits h
  obtain rfl := Host.Outcome.next.inj (he'.symm.trans he)
  have hi : t'.i = s.i := ht.frame.i (by decide)
  obtain ⟨bytes, hload, hregs⟩ := exec_ldVxMi_of_fits (s := { t' with v := v }) (hi ▸ h)
  refine ⟨_, hload, fun k hk => ?_⟩
  rw [hregs, if_pos hk, ← ht.read_reg hk, ← hi]

/-- Settles O40: the next fetch is at `I`, where the store has put `V0` and `V1`. -/
theorem storeIsSeenByTheNextFetch : Obligations.StoreIsSeenByTheNextFetch := by
  intro x s t hx hi h he
  obtain ⟨t', he', ht⟩ := exec_ldMiVx_of_fits h
  obtain rfl := Host.Outcome.next.inj (he'.symm.trans he)
  have hpc : t'.pc = s.i := ht.pc.trans hi.symm
  rw [State.fetchWord_eq_some (by rw [hpc]; omega), hpc]
  exact congrArg some (congrArg₂ wordOfBytes (ht.read_reg (k := 0) (Fin.zero_le x)) (ht.read_reg (k := 1) hx))

end Sys2Proof.Machine
end

section
/-! `Load` (spec/70_reset_and_hazards.md R171), and the step of a fetched instruction (spec/40_step_and_control.md R60). -/

namespace Sys2Proof.Machine

/-- Settles O54: the copy, or the fault and nothing else. -/
theorem loadCopiesTheImageOrRejectsIt : Obligations.LoadCopiesTheImageOrRejectsIt := by
  intro s bytes hf
  rcases State.load_cases hf bytes with ⟨hle, he⟩ | ⟨hlt, he⟩
  · refine ⟨fun _ => ?_, fun h => absurd hle (Nat.not_le.mpr h)⟩
    rw [he]
    refine ⟨fun k => Memory.readByte_writeBytes s.mem, fun a => Memory.readByte_writeBytes_of_outside s.mem, ?_⟩
    constructor <;> simp
  · exact ⟨fun h => absurd h (Nat.not_le.mpr hlt), fun _ => he⟩

/-- Settles O7: the fetch at `pc` gives these two bytes, so it gives the instruction that they decode to. -/
theorem stepRunsTheDecodedInstruction : Obligations.StepRunsTheDecodedInstruction := by
  intro s i hf hpc hd
  refine step_of_fetchInstr_ok hf ?_
  simp only [State.fetchInstr, State.fetchWord_eq_some hpc, hd]

end Sys2Proof.Machine
end

section
/-! The decoder against the encoder and against the opcode table (spec/30_encoding.md R48 to R50, D8). -/

namespace Sys2Proof.Laws.MatchesRow

/-- The word of every instruction is selected by the row of its mnemonic; one line for each class of R49. -/
theorem all : ∀ i : Instr, Statement i
  | .nop => nop | .cls => cls | .ret => ret
  | .jpNnn nnn => jpNnn nnn
  | .callNnn nnn => callNnn nnn
  | .seVxNn x nn => seVxNn x nn
  | .sneVxNn x nn => sneVxNn x nn
  | .seVxVy x y => seVxVy x y
  | .ldVxNn x nn => ldVxNn x nn
  | .addVxNn x nn => addVxNn x nn
  | .ldVxVy x y => ldVxVy x y | .orVxVy x y => orVxVy x y | .andVxVy x y => andVxVy x y | .xorVxVy x y => xorVxVy x y
  | .addVxVy x y => addVxVy x y | .subVxVy x y => subVxVy x y | .shrVx x y => shrVx x y
  | .subnVxVy x y => subnVxVy x y | .shlVx x y => shlVx x y
  | .sneVxVy x y => sneVxVy x y
  | .ldINnn nnn => ldINnn nnn
  | .jpV0Nnn nnn => jpV0Nnn nnn
  | .rndVxNn x nn => rndVxNn x nn
  | .drwVxVyN x y n => drwVxVyN x y n
  | .skpVx x => skpVx x | .sknpVx x => sknpVx x
  | .ldVxDt x => ldVxDt x | .ldVxK x => ldVxK x | .ldDtVx x => ldDtVx x | .ldStVx x => ldStVx x | .addIVx x => addIVx x
  | .ldFVx x => ldFVx x | .ldBVx x => ldBVx x | .ldMiVx x => ldMiVx x | .ldVxMi x => ldVxMi x

end Sys2Proof.Laws.MatchesRow

namespace Sys2Proof

/-- Settles O1: by the format of each instruction (`decode_encode`). -/
theorem encodeThenDecodeIsIdentity : Obligations.EncodeThenDecodeIsIdentity := decode_encode

/-- Settles O2: by the class of the word (`encode_of_decode`). -/
theorem decodeThenEncodeIsIdentity : Obligations.DecodeThenEncodeIsIdentity := fun _ _ => encode_of_decode

/-! ## The words that decode rejects -/

theorem decodeClass0_error {op : Word} {r : Reject} (h : decodeClass0 op = .error r) : r = .undefinedWord op := by
  unfold decodeClass0 at h
  split at h <;> cases h
  rfl

theorem decodeClass8_error {op : Word} {r : Reject} (h : decodeClass8 op = .error r) : r = .undefinedWord op := by
  unfold decodeClass8 at h
  split at h <;> cases h
  rfl

theorem decodeClassE_error {op : Word} {r : Reject} (h : decodeClassE op = .error r) : r = .undefinedWord op := by
  unfold decodeClassE at h
  split at h <;> cases h
  rfl

theorem decodeClassF_error {op : Word} {r : Reject} (h : decodeClassF op = .error r) : r = .undefinedWord op := by
  unfold decodeClassF at h
  split at h <;> cases h
  rfl

/-- R50: a word is rejected by no other name than `undefinedWord`. -/
theorem decode_error {op : Word} {r : Reject} (h : decode op = .error r) : r = .undefinedWord op := by
  unfold decode at h
  split at h
  case h_1 => exact decodeClass0_error h
  case h_6 | h_10 => split at h <;> cases h; rfl
  case h_9 => exact decodeClass8_error h
  case h_15 => exact decodeClassE_error h
  case h_16 => exact decodeClassF_error h
  case h_17 => cases h; rfl
  all_goals cases h

theorem decode_eq_undefinedWord_iff {op : Word} :
    decode op = .error (.undefinedWord op) ↔ (decode op).isOk = false := by
  cases h : decode op with
  | ok i => exact iff_of_false nofun nofun
  | error r => exact iff_of_true (decode_error h ▸ rfl) rfl

/-! ## The fields that decode dispatches on -/

/-- The words agree in the class and in the sub-opcode that R47 gives the class. -/
structure SameOpcode (op p : Word) : Prop where
  cls : slice op 15 12 = slice p 15 12
  low12 : slice p 15 12 = 0 → slice op 11 0 = slice p 11 0
  nibble : slice p 15 12 ∈ [5, 8, 9] → slice op 3 0 = slice p 3 0
  byte : slice p 15 12 ∈ [14, 15] → slice op 7 0 = slice p 7 0

theorem isOk_decodeClass0_congr {op p : Word} (h : slice op 11 0 = slice p 11 0) :
    (decodeClass0 op).isOk = (decodeClass0 p).isOk := by
  rw [decodeClass0, decodeClass0, h]
  split <;> rfl

theorem isOk_decodeClass8_congr {op p : Word} (h : slice op 3 0 = slice p 3 0) :
    (decodeClass8 op).isOk = (decodeClass8 p).isOk := by
  rw [decodeClass8, decodeClass8, h]
  split <;> rfl

theorem isOk_decodeClassE_congr {op p : Word} (h : slice op 7 0 = slice p 7 0) :
    (decodeClassE op).isOk = (decodeClassE p).isOk := by
  rw [decodeClassE, decodeClassE, h]
  split <;> rfl

theorem isOk_decodeClassF_congr {op p : Word} (h : slice op 7 0 = slice p 7 0) :
    (decodeClassF op).isOk = (decodeClassF p).isOk := by
  rw [decodeClassF, decodeClassF, h]
  split <;> rfl

theorem SameOpcode.isOk_decode {op p : Word} (h : SameOpcode op p) : (decode op).isOk = (decode p).isOk := by
  rw [decode, decode, h.cls]
  split
  case h_1 hc => exact isOk_decodeClass0_congr (h.low12 hc)
  case h_6 hc | h_10 hc =>
    rw [h.nibble (by simp [hc])]
    split <;> rfl
  case h_9 hc => exact isOk_decodeClass8_congr (h.nibble (by simp [hc]))
  case h_15 hc => exact isOk_decodeClassE_congr (h.byte (by simp [hc]))
  case h_16 hc => exact isOk_decodeClassF_congr (h.byte (by simp [hc]))
  all_goals rfl

/-! ## The rows of the opcode table -/

/-- A field whose bits the mask keeps whole has the value it has in the pattern (R48). -/
theorem slice_of_selects {r : OpcodeRow} {op : Word} {hi lo : Nat} (h : r.selects op = true)
    (hm : slice r.mask hi lo = 2 ^ (hi + 1 - lo) - 1) : slice op hi lo = slice r.pat hi lo := by
  have hp := (selects_iff r op).mp h
  calc slice op hi lo = slice op hi lo &&& slice r.mask hi lo := by
        rw [hm, Nat.and_two_pow_sub_one_eq_mod, Nat.mod_eq_of_lt (slice_lt op hi lo)]
    _ = slice r.pat hi lo := by
        rw [slice, slice, slice, ← hp, Nat.and_div_two_pow, Nat.and_mod_two_pow]

/-- R47, R49: every mask keeps the class, and with it the sub-opcode of a class that has one. -/
theorem opcodeTable_masks : ∀ r ∈ opcodeTable, slice r.mask 15 12 = 15 ∧
    (slice r.pat 15 12 = 0 → slice r.mask 11 0 = 4095) ∧
    (slice r.pat 15 12 ∈ [5, 8, 9] → slice r.mask 3 0 = 15) ∧
    (slice r.pat 15 12 ∈ [14, 15] → slice r.mask 7 0 = 255) := by decide

theorem sameOpcode_of_selects {r : OpcodeRow} {op : Word} (hr : r ∈ opcodeTable) (h : r.selects op = true) :
    SameOpcode op r.pat := by
  obtain ⟨hcls, hlow12, hnibble, hbyte⟩ := opcodeTable_masks r hr
  exact ⟨slice_of_selects h hcls, fun hc => slice_of_selects h (hlow12 hc), fun hc => slice_of_selects h (hnibble hc),
    fun hc => slice_of_selects h (hbyte hc)⟩

theorem opcodeTable_patterns_decode : ∀ r ∈ opcodeTable, (decode r.pat).isOk = true := by decide

/-- R48: a word that a row selects decodes, because the row's own pattern does. -/
theorem isOk_decode_of_selects {r : OpcodeRow} {op : Word} (hr : r ∈ opcodeTable) (h : r.selects op = true) :
    (decode op).isOk = true :=
  (sameOpcode_of_selects hr h).isOk_decode.trans (opcodeTable_patterns_decode r hr)

theorem exists_row_of_decode {op : Word} {i : Instr} (h : decode op = .ok i) :
    ∃ r ∈ opcodeTable, r.mnemonic = i.mnemonic ∧ r.selects op = true :=
  encode_of_decode h ▸ Laws.MatchesRow.all i

/-- R50: exactly the words of no row are undefined. -/
theorem decode_eq_undefinedWord_iff_forall_row {op : Word} :
    decode op = .error (.undefinedWord op) ↔ ∀ r ∈ opcodeTable, r.selects op = false := by
  rw [decode_eq_undefinedWord_iff]
  constructor
  · intro hd r hr
    by_contra hs
    exact absurd (isOk_decode_of_selects hr (Bool.eq_true_of_not_eq_false hs)) (Bool.eq_false_iff.mp hd)
  · intro hno
    cases hd : decode op with
    | error r => rfl
    | ok i =>
      obtain ⟨r, hr, -, hs⟩ := exists_row_of_decode hd
      exact absurd hs (Bool.eq_false_iff.mp (hno r hr))

/-- Settles O3: the row of the mnemonic selects the instruction's word, and a word that a row selects decodes. -/
theorem decodeFollowsTheOpcodeTable : Obligations.DecodeFollowsTheOpcodeTable :=
  fun _ => ⟨fun _ => exists_row_of_decode, decode_eq_undefinedWord_iff_forall_row⟩

/-- Two rows differ in a bit that both masks keep (R48). -/
theorem opcodeTable_patterns_differ : ∀ r ∈ opcodeTable, ∀ r' ∈ opcodeTable,
    r.pat &&& r'.mask = r'.pat &&& r.mask → r = r' := by decide

/-- Settles O4: on the bits that both masks keep, a word that both rows select has the value of both patterns. -/
theorem opcodeRowsAreMutuallyExclusive : Obligations.OpcodeRowsAreMutuallyExclusive := by
  intro op r r' hr hr' h h'
  have hp : op &&& r.mask = r.pat := beq_iff_eq.mp h
  have hp' : op &&& r'.mask = r'.pat := beq_iff_eq.mp h'
  apply opcodeTable_patterns_differ r hr r' hr'
  rw [← hp, ← hp', BitVec.and_assoc, BitVec.and_assoc, BitVec.and_comm r.mask]

/-- Settles O6: the decoder computes each of the words. -/
theorem sampleWordsDecode : Obligations.SampleWordsDecode := by
  unfold Obligations.SampleWordsDecode
  decide

end Sys2Proof

namespace Sys2Proof.Machine

/-- Settles O9: no row selects the word, so decode rejects it and the step raises the fault of decode. -/
theorem undefinedWordLatchesDecodeError : Obligations.UndefinedWordLatchesDecodeError := by
  intro s hf hpc hdef
  have hd := decode_eq_undefinedWord_iff_forall_row.mpr (by simpa [definedWord] using hdef)
  exact step_of_fetchInstr_error hf (by simp only [State.fetchInstr, State.fetchWord_eq_some hpc, hd])

end Sys2Proof.Machine
end

section
/-! The Step cycle where it does not depend on the byte, faults, or changes nothing, and the instructions that only set `pc`
(spec/40_step_and_control.md R60 to R65). -/

namespace Sys2Proof.Machine

/-! ## The Step cycle (R60) -/

/-- Settles O17: every fetched instruction but CXNN is executed with no byte given, and a halted Machine or a fault of fetch
or decode has no use for one. -/
theorem randMattersOnlyToRnd : Obligations.RandMattersOnlyToRnd := by
  intro s rand rand' hnot
  by_cases hf : s.fault = none
  · cases hi : s.fetchInstr with
    | error r => rw [stepWith_of_fetchInstr_error hf hi, stepWith_of_fetchInstr_error hf hi]
    | ok i =>
      have hr : ∀ x nn, i ≠ .rndVxNn x nn := fun x nn e => hnot x nn (e ▸ hi)
      obtain ⟨t, he, -⟩ := exec_answers i s
      rw [stepWith_of_exec hf hi hr he, stepWith_of_exec hf hi hr he]
  · rw [stepWith_of_halted hf, stepWith_of_halted hf]

/-- Settles O8: there is no word to fetch, so the step raises the fault of fetch. -/
theorem fetchPastTheEndLatchesFetchOutOfBounds : Obligations.FetchPastTheEndLatchesFetchOutOfBounds := by
  intro s hf hpc
  exact step_of_fetchInstr_error hf (by simp only [State.fetchInstr, State.fetchWord_eq_none hpc])

/-- Settles O60: the jump executed writes to `pc` the value it has. -/
theorem finishedProgramStaysFinished : Obligations.FinishedProgramStaysFinished := by
  rintro s ⟨hf, nnn, hi, hpc⟩
  calc step s = exec (.jpNnn nnn) s := step_of_fetchInstr_ok hf hi
    _ = .next { s with pc := zext16 nnn } := rfl
    _ = .next s := by rw [hpc]

/-! ## The instructions that only set `pc` (R61, R63, R65) -/

/-- A new `pc` is in the frame of `pc`. -/
theorem UnchangedExcept.of_pc (s : State) (pc : Word) : UnchangedExcept [.pc] s { s with pc := pc } := by
  constructor <;> simp

/-- Settles O18: the word of NOP is 0, and only the word of an instruction decodes to it. -/
theorem nopOnlyAdvancesPc : Obligations.NopOnlyAdvancesPc :=
  ⟨fun _ => decode_eq_ok_iff.trans eq_comm,
    fun s => ⟨s.advance, rfl, BitVec.toNat_add s.pc 2, .of_pc s (s.pc + 2)⟩⟩

/-- Settles O19: the 12-bit target is zero-extended, so it keeps its value. -/
theorem jumpSetsPcToNnn : Obligations.JumpSetsPcToNnn := fun nnn s =>
  ⟨_, rfl, BitVec.toNat_setWidth_of_le (by decide), .of_pc s (zext16 nnn)⟩

/-- Settles O20: a byte and a 12-bit address have a sum below 65536, so the 16-bit sum is theirs. -/
theorem indexedJumpAddsV0 : Obligations.IndexedJumpAddsV0 := by
  intro nnn s
  refine ⟨_, rfl, ?_, .of_pc s (zext16 (s.getV 0) + zext16 nnn)⟩
  have hv : (zext16 (s.getV 0)).toNat = (s.getV 0).toNat := BitVec.toNat_setWidth_of_le (by decide)
  have hn : (zext16 nnn).toNat = nnn.toNat := BitVec.toNat_setWidth_of_le (by decide)
  rw [BitVec.toNat_add, hv, hn]
  omega

/-! ## The limits of the stack (R143) -/

/-- Settles O23: the two conditions are those that R140's table lists. -/
theorem stackLimitsLatchFaults : Obligations.StackLimitsLatchFaults :=
  ⟨fun _ _ h => exec_of_faultOf_eq_some (if_pos h), fun _ h => exec_of_faultOf_eq_some (if_pos h)⟩

end Sys2Proof.Machine
end

section
/-! The skips (spec/41_skips.md R70 to R74): an instruction that ends in `skipIf` completes, moves `pc` on by 4 or by 2, and
changes nothing else. What is left to each skip is the condition it tests. -/

namespace Sys2Proof.Machine

/-- The two ends of a skip (R70): 4 past the instruction's address when taken, 2 when not, in 16-bit arithmetic. -/
theorem toNat_pc_advance_skipIf (s : State) (taken : Bool) :
    (s.advance.skipIf taken).pc.toNat = (s.pc.toNat + if taken = true then 4 else 2) % 65536 := by
  rw [State.skipIf_pc, State.advance_pc]
  cases taken with
  | false => exact BitVec.toNat_add s.pc 2
  | true =>
    calc (s.pc + 2 + 2).toNat = (s.pc + 4).toNat := by rw [BitVec.add_assoc]; rfl
      _ = (s.pc.toNat + 4) % 65536 := BitVec.toNat_add s.pc 4

/-- Whether taken or not, a skip writes only `pc` (R70). -/
theorem UnchangedExcept.skipIf (s : State) (taken : Bool) : UnchangedExcept [.pc] s (s.advance.skipIf taken) := by
  cases taken with
  | false => exact .of_pc s (s.pc + 2)
  | true => exact .of_pc s (s.pc + 2 + 2)

section
variable {i : Instr} {s : State} {taken : Bool} {P : Prop} [Decidable P]

/-- An instruction that skips when `P`. -/
theorem exec_skips_if (he : exec i s = .next (s.advance.skipIf taken)) (hP : taken = true ↔ P) :
    ∃ t, exec i s = .next t ∧ UnchangedExcept [.pc] s t ∧ t.pc.toNat = (s.pc.toNat + if P then 4 else 2) % 65536 := by
  refine ⟨_, he, .skipIf s taken, ?_⟩
  simp only [toNat_pc_advance_skipIf, hP]

/-- An instruction that skips unless `P`. -/
theorem exec_skips_unless (he : exec i s = .next (s.advance.skipIf taken)) (hP : taken = true ↔ ¬ P) :
    ∃ t, exec i s = .next t ∧ UnchangedExcept [.pc] s t ∧ t.pc.toNat = (s.pc.toNat + if P then 2 else 4) % 65536 := by
  simpa only [ite_not] using exec_skips_if he hP

end

/-- The test of the SE instructions is equality of the unsigned values (R70). -/
theorem byte_beq_iff_toNat_eq {a b : Byte} : (a == b) = true ↔ a.toNat = b.toNat :=
  beq_iff_eq.trans BitVec.toNat_inj.symm

/-- The test of the SNE instructions is its complement (R70). -/
theorem byte_bne_iff_toNat_ne {a b : Byte} : (a != b) = true ↔ ¬ a.toNat = b.toNat :=
  bne_iff_ne.trans (not_congr BitVec.toNat_inj.symm)

/-- Settles O25: both compare `V[X]` with the byte, SE for equality and SNE for its complement. -/
theorem immediateSkips : Obligations.ImmediateSkips := fun _ _ _ =>
  ⟨exec_skips_if rfl byte_beq_iff_toNat_eq, exec_skips_unless rfl byte_bne_iff_toNat_ne⟩

/-- Settles O26: both compare `V[X]` with `V[Y]`, SE for equality and SNE for its complement. -/
theorem registerSkips : Obligations.RegisterSkips := fun _ _ _ =>
  ⟨exec_skips_if rfl byte_beq_iff_toNat_eq, exec_skips_unless rfl byte_bne_iff_toNat_ne⟩

end Sys2Proof.Machine
end

section
/-! The register instructions (spec/42_alu.md R80 to R92): an instruction that ends in `setV`, in `setVThenFlag` or in
`rndEffect` completes with its frame whatever it computes. What is left to each is the value, and the flag. -/

namespace Sys2Proof.Machine

/-! ## One register written, no flag (R81 to R86) -/

/-- A register write after the advance changes only V and `pc`. -/
theorem UnchangedExcept.setV (s : State) (x : Reg) (b : Byte) : UnchangedExcept [.pc, .v] s (s.advance.setV x b) :=
  (ChangesOnlyItsRow.setV (i := .ldVxNn x b) rfl (fun _ => id) s b).parts

/-- Settles O27: V after one `setV`, read at every register. -/
theorem registerLoads : Obligations.RegisterLoads := fun x y nn s =>
  ⟨⟨_, rfl, rfl, .setV s x nn, fun r => s.advance.getV_setV x r nn⟩,
    ⟨_, rfl, rfl, .setV s x (s.getV y), fun r => s.advance.getV_setV x r (s.getV y)⟩⟩

/-- Settles O28: 8-bit addition is addition modulo 256. -/
theorem immediateAddWrapsWithNoFlag : Obligations.ImmediateAddWrapsWithNoFlag := by
  intro x nn s
  refine ⟨_, rfl, ?_, fun r hr => s.advance.getV_setV_of_ne _ hr, rfl, .setV s x _⟩
  rw [State.getV_setV_self]
  exact BitVec.toNat_add (s.getV x) nn

/-- An instruction that writes the byte of bits `f` to `V[X]`. -/
theorem exec_writes_bits {i : Instr} {s : State} {x : Reg} {b : Byte} {f : Nat → Bool}
    (he : exec i s = .next (s.advance.setV x b)) (hb : ∀ k, b.getLsbD k = f k) :
    ∃ t, exec i s = .next t ∧ t.pc = s.pc + 2 ∧ UnchangedExcept [.pc, .v] s t ∧
      (∀ k, (t.getV x).getLsbD k = f k) ∧ ∀ r, r ≠ x → t.getV r = s.getV r := by
  refine ⟨_, he, rfl, .setV s x b, fun k => ?_, fun r hr => s.advance.getV_setV_of_ne b hr⟩
  rw [State.getV_setV_self, hb]

/-- Settles O29: each of the three is an operation on the bits of the old values. -/
theorem logicIsBitwiseWithNoFlag : Obligations.LogicIsBitwiseWithNoFlag := fun _ _ _ =>
  ⟨exec_writes_bits rfl fun _ => BitVec.getLsbD_or, exec_writes_bits rfl fun _ => BitVec.getLsbD_and,
    exec_writes_bits rfl fun _ => BitVec.getLsbD_xor⟩

/-! ## The result, then the flag (R8, R87 to R91) -/

/-- A result and a flag written after the advance change only V and `pc`. -/
theorem UnchangedExcept.setVThenFlag (s : State) (x : Reg) (b c : Byte) :
    UnchangedExcept [.pc, .v] s (s.advance.setVThenFlag x b c) :=
  (ChangesOnlyItsRow.setVThenFlag (i := .addVxVy x x) rfl (fun _ => id) s b c).parts

/-- An instruction that writes the result `m` to `V[X]` and then the flag `n` to VF: for `X = 0xF` the flag stays. -/
theorem exec_writes_then_flag {i : Instr} {s : State} {x : Reg} {b c : Byte} {m n : Nat}
    (he : exec i s = .next (s.advance.setVThenFlag x b c)) (hc : c.toNat = n) (hb : b.toNat = m) :
    ∃ t, exec i s = .next t ∧ (t.getV 15).toNat = n ∧ (x ≠ 15 → (t.getV x).toNat = m) ∧
      (∀ r, r ≠ x → r ≠ 15 → t.getV r = s.getV r) ∧ t.pc = s.pc + 2 ∧ UnchangedExcept [.pc, .v] s t := by
  refine ⟨_, he, ?_, fun hx => ?_, fun r hr hr' => ?_, rfl, .setVThenFlag s x b c⟩
  · rw [State.getV_setVThenFlag, if_pos rfl, hc]
  · rw [State.getV_setVThenFlag, if_neg hx, if_pos rfl, hb]
  · rw [State.getV_setVThenFlag, if_neg hr', if_neg hr, State.getV_advance]

theorem carryFlag_toNat (a b : Byte) : (carryFlag a b).toNat = if a.toNat + b.toNat > 255 then 1 else 0 := by
  simp only [carryFlag, flagByte_toNat, decide_eq_true_eq]

theorem noBorrowFlag_toNat (a b : Byte) : (noBorrowFlag a b).toNat = if a.toNat ≥ b.toNat then 1 else 0 := by
  simp only [noBorrowFlag, flagByte_toNat, decide_eq_true_eq]

/-- The flag of bit `k` has that bit's value. -/
theorem flagByte_getLsbD_toNat (a : Byte) (k : Nat) : (flagByte (a.getLsbD k)).toNat = a.toNat / 2 ^ k % 2 := by
  calc (flagByte (a.getLsbD k)).toNat = (a.toNat.testBit k).toNat :=
        (flagByte_toNat _).trans (Bool.cond_eq_ite _ _ _).symm
    _ = a.toNat / 2 ^ k % 2 := Nat.toNat_testBit a.toNat k

theorem shiftedOutLow_toNat (a : Byte) : (shiftedOutLow a).toNat = a.toNat % 2 := by
  rw [shiftedOutLow, flagByte_getLsbD_toNat, Nat.pow_zero, Nat.div_one]

/-- Bit 7 is the last of a byte, so nothing is above it. -/
theorem shiftedOutHigh_toNat (a : Byte) : (shiftedOutHigh a).toNat = a.toNat / 128 := by
  rw [shiftedOutHigh, flagByte_getLsbD_toNat]
  omega

/-- 8-bit subtraction is the difference modulo 256 (R80). -/
theorem byte_sub_toNat (a b : Byte) : (a - b).toNat = (a.toNat + 256 - b.toNat) % 256 := by
  rw [BitVec.toNat_sub]
  omega

/-- Settles O30: the carry and the sum, both of the old values. -/
theorem addGivesSumAndCarry : Obligations.AddGivesSumAndCarry := fun _ _ _ =>
  exec_writes_then_flag rfl (carryFlag_toNat _ _) (BitVec.toNat_add _ _)

/-- Settles O31: SUBN is SUB with the operands exchanged, in the difference and in the flag. -/
theorem subtractionsGiveDifferenceAndNoBorrow : Obligations.SubtractionsGiveDifferenceAndNoBorrow := fun _ _ _ =>
  ⟨exec_writes_then_flag rfl (noBorrowFlag_toNat _ _) (byte_sub_toNat _ _),
    exec_writes_then_flag rfl (noBorrowFlag_toNat _ _) (byte_sub_toNat _ _)⟩

theorem byte_shiftRight_one_toNat (a : Byte) : (a >>> 1).toNat = a.toNat / 2 := by
  rw [BitVec.toNat_ushiftRight, Nat.shiftRight_eq_div_pow, Nat.pow_one]

theorem byte_shiftLeft_one_toNat (a : Byte) : (a <<< 1).toNat = 2 * a.toNat % 256 := by
  rw [BitVec.toNat_shiftLeft, Nat.shiftLeft_eq, Nat.pow_one, Nat.mul_comm]

/-- Settles O32: the flag is computed from the old `V[X]` and written after the shifted value (C4). -/
theorem shiftsMoveVxAndKeepTheLostBit : Obligations.ShiftsMoveVxAndKeepTheLostBit := fun _ _ _ =>
  ⟨exec_writes_then_flag rfl (shiftedOutLow_toNat _) (byte_shiftRight_one_toNat _),
    exec_writes_then_flag rfl (shiftedOutHigh_toNat _) (byte_shiftLeft_one_toNat _)⟩

/-! ## The random byte (R92) -/

/-- Registers after CXNN: `V[X]` is the byte drawn under the mask, the others are as before. -/
theorem getV_rndEffect (rand : Byte) (x : Reg) (nn : Byte) (s : State) (r : Reg) :
    (rndEffect rand x nn s).getV r = if r = x then rand &&& nn else s.getV r :=
  s.advance.getV_setV x r (rand &&& nn)

/-- CXNN changes only V, `pc` and the model's own draw counter. -/
theorem UnchangedExcept.rndEffect (rand : Byte) (x : Reg) (nn : Byte) (s : State) :
    UnchangedExcept [.pc, .v, .draws] s (rndEffect rand x nn s) := by
  constructor <;> simp [Machine.rndEffect]

/-- A byte under a mask has no bit outside the mask. -/
theorem masked_and_not_mask (b nn : Byte) : b &&& nn &&& ~~~nn = 0 := by
  rw [BitVec.and_assoc, BitVec.and_not_self]
  exact BitVec.and_zero

/-- Settles O33: `exec` has the effect of CXNN with the free byte, `Step(rand)` the same effect with `rand`, and nothing
said of the effect depends on the byte (D9). -/
theorem rndMasksAnyByte : Obligations.RndMasksAnyByte := by
  intro x nn s
  have hx (rand : Byte) : (rndEffect rand x nn s).getV x = rand &&& nn := by rw [getV_rndEffect, if_pos rfl]
  have hr (rand : Byte) (r : Reg) (h : r ≠ x) : (rndEffect rand x nn s).getV r = s.getV r := by
    rw [getV_rndEffect, if_neg h]
  refine ⟨⟨_, rfl, hx _, ?_, rfl, hr _, rfl, .rndEffect _ x nn s⟩, fun hf hi rand => ?_⟩
  · rw [hx, masked_and_not_mask]
  · rw [stepWith_of_rnd hf hi]
    exact ⟨hx rand, rfl, hr rand, rfl, .rndEffect rand x nn s⟩

end Sys2Proof.Machine
end

section
/-! The instructions that write the index register, and the load through it (spec/43_index_memory.md R100 to R102, R105): what
is left to each of the three writers of `I` is the value. -/

namespace Sys2Proof.Machine

/-! ## The writers of `I` (R100 to R102) -/

/-- A new `I` after the advance is in the frame of `pc` and `I`. -/
theorem UnchangedExcept.of_i (s : State) (w : Word) : UnchangedExcept [.pc, .i] s { s.advance with i := w } := by
  constructor <;> simp

/-- An instruction that writes the value `n` to `I`. -/
theorem exec_writes_i {i : Instr} {s : State} {w : Word} {n : Nat}
    (he : exec i s = .next { s.advance with i := w }) (hw : w.toNat = n) :
    ∃ t, exec i s = .next t ∧ t.i.toNat = n ∧ t.pc = s.pc + 2 ∧ UnchangedExcept [.pc, .i] s t :=
  ⟨_, he, hw, rfl, .of_i s w⟩

/-- A register widened to 16 bits keeps its value. -/
theorem zext16_byte_toNat (b : Byte) : (zext16 b).toNat = b.toNat := BitVec.toNat_setWidth_of_le (by decide)

/-- FX1E adds modulo 65536 (D16). -/
theorem add_zext16_byte_toNat (w : Word) (b : Byte) : (w + zext16 b).toNat = (w.toNat + b.toNat) % 65536 := by
  rw [BitVec.toNat_add, zext16_byte_toNat]

/-- Five times a byte is below 65536, so FX29 does not wrap. -/
theorem five_mul_zext16_byte_toNat (b : Byte) : (5 * zext16 b).toNat = 5 * b.toNat := by
  rw [BitVec.toNat_mul, zext16_byte_toNat]
  exact Nat.mod_eq_of_lt (show 5 * b.toNat < 65536 by omega)

/-- Settles O34: each of the three writes one value to `I`; that of ANNN is zero-extended, so it stays the 12-bit one. -/
theorem indexRegisterWrites : Obligations.IndexRegisterWrites := fun _ _ _ =>
  ⟨exec_writes_i rfl (BitVec.toNat_setWidth_of_le (by decide)), exec_writes_i rfl (add_zext16_byte_toNat _ _),
    exec_writes_i rfl (five_mul_zext16_byte_toNat _)⟩

/-! ## The load (R105) -/

/-- A load into the registers after the advance changes only V and `pc`. -/
theorem UnchangedExcept.loadRegs (s : State) (bytes : List Byte) :
    UnchangedExcept [.pc, .v] s (s.advance.loadRegs bytes) := by
  constructor <;> simp

/-- Settles O37: FX65 in memory completes by a load into the registers, and such a load has the frame whatever it reads. -/
theorem registersAreLoadedFromI : Obligations.RegistersAreLoadedFromI := by
  intro x s h
  obtain ⟨bytes, he, hregs⟩ := exec_ldVxMi_of_fits h
  exact ⟨_, he, hregs, rfl, .loadRegs s bytes⟩

end Sys2Proof.Machine
end

section
/-! The display instructions (spec/44_display.md R110 to R112). The frames are those of the instructions' rows; what is left
is the cells, and for a draw the collision flag. -/

namespace Sys2Proof.Machine

/-! ## Clearing (R110) -/

/-- Settles O43: the display written is the clear one, and the row of CLS lists no other part. -/
theorem clearTurnsEveryCellOff : Obligations.ClearTurnsEveryCellOff := fun _ =>
  ⟨_, rfl, Display.lit_clear, rfl, (exec_changesOnlyItsRow .cls rfl rfl).parts⟩

/-! ## The cells of a sprite (R112) -/

/-- A sprite cell is the cell of the wrapped coordinates. -/
theorem spritePixel_eq_iff {vx vy : Byte} {r k : Nat} {p : Pixel} :
    spritePixel vx vy r k = p ↔ p.x.val = (vx.toNat + k) % 64 ∧ p.y.val = (vy.toNat + r) % 32 := by
  obtain ⟨px, py⟩ := p
  rw [spritePixel, Pixel.mk.injEq, Fin.ext_iff, Fin.ext_iff, eq_comm, eq_comm (b := py.val)]
  rfl

/-- The cells listed for the bytes loaded at `I` are those the sprite covers. -/
theorem mem_spritePixels_iff_spriteCovers {s : State} {vx vy : Byte} {n : Nat} {rows : List Byte} {p : Pixel}
    (h : s.mem.loadBytes s.baseAddr n = some rows) : p ∈ spritePixels vx vy 0 rows ↔ SpriteCovers s vx vy n p := by
  obtain ⟨-, rfl, hread⟩ := Memory.loadBytes_spec h
  simp only [mem_spritePixels, SpriteCovers, hread, State.baseAddr, Nat.zero_add, spritePixel_eq_iff, exists_prop]

/-- What a sprite covers depends on the state by its memory and `I` alone. -/
theorem spriteCovers_congr {s t : State} (hm : t.mem = s.mem) (hi : t.i = s.i) {vx vy : Byte} {n : Nat} {p : Pixel} :
    SpriteCovers t vx vy n p ↔ SpriteCovers s vx vy n p := by
  rw [SpriteCovers, SpriteCovers, hm, hi]

/-! ## Drawing (R111) -/

/-- A draw of a sprite in memory toggles the covered cells one after another, none twice, and then writes the flag. -/
theorem exec_drwVxVyN_of_fits {x y : Reg} {n : Fin 16} {s : State} (h : n.val = 0 ∨ s.i.toNat + n.val - 1 ≤ 0xFFF) :
    ∃ ps : List Pixel, ps.Nodup ∧ (∀ p, p ∈ ps ↔ SpriteCovers s (s.getV x) (s.getV y) n.val p) ∧
      exec (.drwVxVyN x y n) s = .next
        ({ s.advance with disp := (Display.draw s.disp ps).1 }.setV 15 (collisionFlag (Display.draw s.disp ps).2)) := by
  obtain ⟨rows, hload⟩ : ∃ rows, s.mem.loadBytes s.baseAddr n.val = some rows :=
    ⟨_, Memory.loadBytes_eq_some (by rw [State.baseAddr]; omega)⟩
  obtain ⟨-, hlen, -⟩ := Memory.loadBytes_spec hload
  exact ⟨spritePixels (s.getV x) (s.getV y) 0 rows, spritePixels_nodup _ _ (by omega),
    fun _ => mem_spritePixels_iff_spriteCovers hload, by simp only [exec, execDrwVxVyN, hload]⟩

/-- Settles O44: each covered cell is toggled once, so it ends inverted, and the draw collides exactly when one of them was
lit before. -/
theorem drawXorsTheSpriteAndReportsCollision : Obligations.DrawXorsTheSpriteAndReportsCollision := by
  intro x y n s hfit
  obtain ⟨ps, hnodup, hcovers, he⟩ := exec_drwVxVyN_of_fits (x := x) (y := y) hfit
  obtain ⟨hframe, hregs, -⟩ := exec_drwVxVyN_changesOnlyItsRow he (if_neg (by omega))
  have hlit := Display.lit_draw s.disp hnodup
  have hcollides := Display.draw_collision s.disp hnodup
  simp only [hcovers] at hcollides
  refine ⟨_, he, fun p hp => (hlit p).trans (if_pos ((hcovers p).mpr hp)),
    fun p hp => (hlit p).trans (if_neg (mt (hcovers p).mp hp)), fun hsome => ?_, fun hoff => ?_, hregs, rfl, hframe⟩
  · rw [State.getV_setV_self, hcollides.mpr hsome]; rfl
  · have hnone : (Display.draw s.disp ps).2 = false := by
      rw [← Bool.not_eq_true, hcollides]
      rintro ⟨p, hp, hon⟩
      exact Bool.false_ne_true ((hoff p hp).symm.trans hon)
    rw [State.getV_setV_self, hnone]; rfl

/-- Settles O45: the first draw leaves all that the sprite's cells depend on, so the second toggles the same cells. -/
theorem drawingTwiceRestoresTheDisplay : Obligations.DrawingTwiceRestoresTheDisplay := by
  intro x y n s t hx hy hfit he
  obtain ⟨t', he', htoggled, hkept, -, hclear, hregs, -, hframe⟩ := drawXorsTheSpriteAndReportsCollision x y n s hfit
  obtain rfl := Host.Outcome.next.inj (he'.symm.trans he)
  have hi : t'.i = s.i := hframe.i (by decide)
  obtain ⟨u, hu, htoggled', hkept', hcollides, -⟩ := drawXorsTheSpriteAndReportsCollision x y n t' (hi ▸ hfit)
  simp only [hregs x hx, hregs y hy, spriteCovers_congr (hframe.mem (by decide)) hi] at htoggled' hkept' hcollides
  refine ⟨u, hu, Display.ext_lit fun p => ?_, fun hoff => ⟨hclear fun p _ => hoff p, fun ⟨p, hp⟩ => ?_⟩⟩
  · by_cases hp : SpriteCovers s (s.getV x) (s.getV y) n.val p
    · rw [htoggled' p hp, htoggled p hp, Bool.not_not]
    · rw [hkept' p hp, hkept p hp]
  · exact hcollides ⟨p, hp, by rw [htoggled p hp, hoff p, Bool.not_false]⟩

end Sys2Proof.Machine
end

section
/-! The keypad and timer instructions (spec/45_keypad_timers.md R120 to R125) and the sound observer (R157). -/

namespace Sys2Proof.Machine

/-! ## The key skips (R120, R121) -/

section
variable {x : Reg} {k : Fin 16} {s : State}

theorem exec_skpVx_of_key (h : (s.getV x).toNat = k.val) :
    exec (.skpVx x) s = .next (s.advance.skipIf s.keys[k]) := by
  simp only [exec, execSkpVx, keyIndex_eq_some.mpr h]

theorem exec_sknpVx_of_key (h : (s.getV x).toNat = k.val) :
    exec (.sknpVx x) s = .next (s.advance.skipIf (!s.keys[k])) := by
  simp only [exec, execSknpVx, keyIndex_eq_some.mpr h]

end

/-- Settles O46: SKP skips when the key is down, SKNP unless it is, and a skip has its frame either way. -/
theorem keySkipsTestTheKeyVxNames : Obligations.KeySkipsTestTheKeyVxNames := fun _ _ _ h =>
  ⟨exec_skips_if (exec_skpVx_of_key h) Iff.rfl, exec_skips_unless (exec_sknpVx_of_key h) Bool.not_iff_not⟩

/-- Settles O47: the condition is that of both rows of R140's table. -/
theorem keyAboveFifteenLatchesKeyIndexOutOfRange : Obligations.KeyAboveFifteenLatchesKeyIndexOutOfRange := fun _ _ h =>
  ⟨exec_of_faultOf_eq_some (if_pos h), exec_of_faultOf_eq_some (if_pos h)⟩

/-! ## The key wait (R122) -/

/-- The rewind of FX0A undoes the advance. -/
theorem State.advance_rewind (s : State) : { s.advance with pc := s.advance.pc - 2 } = s := by
  rw [State.advance_pc, BitVec.add_sub_cancel]
  rfl

theorem exec_ldVxK_of_no_key (x : Reg) {s : State} (h : ∀ k : Fin 16, s.keys[k] = false) :
    exec (.ldVxK x) s = .next s := by
  simp only [exec, execLdVxK, State.firstKey_eq_none.mpr h, State.advance_rewind]

theorem exec_ldVxK_of_least_key (x : Reg) {s : State} {k : Fin 16} (hk : s.keys[k] = true)
    (hleast : ∀ j : Fin 16, j < k → s.keys[j] = false) :
    exec (.ldVxK x) s = .next (s.advance.setV x (BitVec.ofNat 8 k.val)) := by
  simp only [exec, execLdVxK, State.firstKey_eq_some.mpr ⟨hk, hleast⟩]

/-- Settles O48: with no key down the rewind gives back the state; else one register is written, with a number below 16, so
the byte holds it. -/
theorem keyWaitRetriesUntilAKeyIsDown : Obligations.KeyWaitRetriesUntilAKeyIsDown := by
  refine fun x s => ⟨exec_ldVxK_of_no_key x, fun k hk hleast => ?_⟩
  refine ⟨_, exec_ldVxK_of_least_key x hk hleast, ?_, fun r hr => s.advance.getV_setV_of_ne _ hr, rfl, .setV s x _⟩
  rw [State.getV_setV_self]
  exact Nat.mod_eq_of_lt (k.isLt.trans (by decide))

/-! ## The timers (R123 to R125, R157) -/

/-- GetSound is `ST > 0` (R157). -/
theorem State.getSound_eq_true {s : State} : s.getSound = true ↔ s.st.toNat > 0 := decide_eq_true_iff

/-- A byte is above 0 exactly when it is not 0. -/
theorem byte_toNat_pos_iff_ne_zero {b : Byte} : b.toNat > 0 ↔ b ≠ 0 :=
  Nat.pos_iff_ne_zero.trans (BitVec.toNat_ne (x := b) (y := 0)).symm

/-- Settles O49: each of the three writes one part; the frames are those of their rows. -/
theorem timerMoves : Obligations.TimerMoves := fun x s =>
  ⟨⟨_, rfl, fun r => s.advance.getV_setV x r s.dt, rfl, .setV s x s.dt⟩,
    ⟨_, rfl, rfl, rfl, (exec_changesOnlyItsRow (.ldDtVx x) rfl rfl).parts⟩,
    ⟨_, rfl, rfl, State.getSound_eq_true.trans byte_toNat_pos_iff_ne_zero, rfl,
      (exec_changesOnlyItsRow (.ldStVx x) rfl rfl).parts⟩,
    State.getSound_eq_true⟩

end Sys2Proof.Machine
end

section
/-! Faults (spec/60_exceptions.md R140, R150): what takes one, what it records, and what a halted Machine ignores. -/

namespace Sys2Proof.Machine

/-- Whatever state an execution answers, it is the instruction's own fault or its completion (R140). -/
theorem faultsOrCompletes_of_exec {i : Instr} {s t : State} (he : exec i s = .next t) : FaultsOrCompletes i s t := by
  obtain ⟨t', he', ht⟩ := exec_answers i s
  rwa [Host.Outcome.next.inj (he.symm.trans he')]

/-- Settles O13: where the table lists a fault, that fault is the answer; where it lists none, the instruction completes and
keeps the latch. -/
theorem instructionsFaultExactlyAsListed : Obligations.InstructionsFaultExactlyAsListed := by
  intro i s t he
  refine ⟨fun c hc => Host.Outcome.next.inj (he.symm.trans (exec_of_faultOf_eq_some hc)), fun hnone => ?_⟩
  rcases faultsOrCompletes_of_exec he with ⟨c, hc, -⟩ | ⟨-, hcompletes⟩
  · cases hnone.symm.trans hc
  · exact hcompletes.fault_eq

/-- A fault raised at `pc` for the word fetched there is precise: the latched record is the one raised (R150, D3, D4). -/
theorem raise_is_precise {s : State} {c : FaultCause} {op : Word} {r : FaultRecord} (hop : op = s.fetchWord.getD 0)
    (h : (s.raise ⟨c, op, s.pc⟩).fault = some r) :
    s.raise ⟨c, op, s.pc⟩ = { s with fault := some r } ∧ r.addr = s.pc ∧ r.opcode = s.fetchWord.getD 0 := by
  obtain rfl := Option.some.inj h
  exact ⟨rfl, rfl, hop⟩

/-- Settles O12: a step that ends with the latch set has raised the fault of the fetch, of the decode, or of an instruction,
and the word of that instruction is the word fetched. -/
theorem faultingStepIsPrecise : Obligations.FaultingStepIsPrecise := by
  intro s t r hf hs hr
  rcases step_cases hs with ⟨hhalted, -⟩ | ⟨-, hw, rfl⟩ | ⟨op, i, -, hw, hd, he⟩ | ⟨op, -, -, hw, -, rfl⟩
  · contradiction
  · exact raise_is_precise (by rw [hw]; rfl) hr
  · rcases faultsOrCompletes_of_exec he with ⟨c, -, rfl⟩ | ⟨-, hcompletes⟩
    · exact raise_is_precise (by rw [hw, encode_of_decode hd]; rfl) hr
    · cases hr.symm.trans (hcompletes.fault_eq.trans hf)
  · exact raise_is_precise (by rw [hw]; rfl) hr

/-- Settles O10: neither the step nor any operation but `Reset` gets past the test of the latch. -/
theorem haltedMachineIgnoresAllButReset : Obligations.HaltedMachineIgnoresAllButReset := fun _ h =>
  ⟨step_of_halted h, fun _ => Operation.apply_of_halted h⟩

end Sys2Proof.Machine
end

section
/-! `TickTimers` and the tone-trigger (spec/60_exceptions.md R153 to R155). -/

namespace Sys2Proof.Machine

/-- A tick of a Machine that is not halted counts both timers down once, and the ticks after it go on from there. -/
theorem after_tickTimers_cons {s : State} (hf : s.fault = none) (ops : List Operation) :
    s.after (.tickTimers :: ops) = { s with dt := countDown s.dt, st := countDown s.st }.after ops := by
  rw [State.after, Operation.apply, tickTimers_of_running hf]

/-- `n` ticks of a Machine that is not halted give the timers new values, `n` less or 0, and that is all (R153). -/
theorem after_replicate_tickTimers (n : Nat) {s : State} (hf : s.fault = none) :
    ∃ dt st : Byte, dt.toNat = s.dt.toNat - n ∧ st.toNat = s.st.toNat - n ∧
      s.after (List.replicate n .tickTimers) = { s with dt := dt, st := st } := by
  induction n generalizing s with
  | zero => exact ⟨s.dt, s.st, rfl, rfl, rfl⟩
  | succ n ih =>
    obtain ⟨dt, st, hdt, hst, he⟩ := ih (s := { s with dt := countDown s.dt, st := countDown s.st }) hf
    simp only [countDown_toNat] at hdt hst
    refine ⟨dt, st, by omega, by omega, ?_⟩
    rw [List.replicate_succ, after_tickTimers_cons hf, he]

/-- Settles O50: the state after `n` ticks differs from the first one in the two timers only. -/
theorem ticksCountBothTimersDownToZero : Obligations.TicksCountBothTimersDownToZero := by
  intro n s hf
  obtain ⟨dt, st, hdt, hst, he⟩ := after_replicate_tickTimers n hf
  rw [he]
  exact ⟨⟨hdt, hst⟩, by constructor <;> simp⟩

/-- Only `TickTimers` emits an event (R155). -/
theorem Operation.apply_emits_none {op : Operation} (h : op ≠ .tickTimers) (s : State) : (op.apply s).2 = none := by
  cases op with
  | tickTimers => contradiction
  | reset | load | step | setKey => rfl

/-- A tick emits the tone-trigger when the Machine is not halted and ST is 1 (R155, D13). -/
theorem tickTimers_emits_iff {s : State} : s.tickTimers.2 = some .toneTrigger ↔ s.fault = none ∧ s.st = 1 := by
  by_cases hf : s.fault = none
  · rw [tickTimers_of_running hf]
    simp [hf]
  · rw [tickTimers_of_halted hf]
    simp [hf]

/-- Settles O51: a tick emits it under this condition, and no other operation emits anything. -/
theorem toneTriggerExactlyWhenStIsOne : Obligations.ToneTriggerExactlyWhenStIsOne := by
  intro op s
  by_cases hop : op = .tickTimers
  · subst hop
    exact tickTimers_emits_iff.trans (and_iff_right rfl).symm
  · rw [Operation.apply_emits_none hop]
    exact iff_of_false nofun fun h => hop h.1

end Sys2Proof.Machine
end
